-- ==== Sys2Proof/Word.lean ====
section
/-! DEFINITION. The words of the block: bytes, command words, the pixel rows, and one token of the command port. -/

namespace Sys2Proof

/-- A byte (spec R7). -/
abbrev Byte := BitVec 8

/-- A command word, and any 32-bit pattern of the operand block (spec R7, R71). -/
abbrev Word := BitVec 32

/-- Eight rows of eight bits, row 0 first: the shape of the pixel buffer (spec R20, R22) and of a
glyph (spec R27). Pixel (column c, row r) is bit c of row r (spec R21). -/
abbrev Rows := Vector Byte 8

/-- One offer on the command port (spec R70): the command word and the wires of the operand block.
Only SENDFRAME samples the operand block; "for every other opcode it is ignored" (spec R79). -/
structure Token where
  cmd  : Word
  opnd : BitVec 104
  deriving DecidableEq, Repr

end Sys2Proof
end

