-- ==== Sys2Proof/Syntax.lean ====
section
/-! DEFINITION. The five commands of the opcode map (spec R75), with their operands as the token carries
them, and the control state a SENDFRAME stands for (spec R80). -/

namespace Sys2Proof

/-- The fields of the 104-bit operand block of SENDFRAME, as they come off the port (spec R79).
`gear`, `turn` and `reserved` are still codes here: some of them name no control state (spec R81,
R188). -/
structure OperandBlock where
  acc      : Word
  dec      : Word
  ang      : Word
  hb       : Bool
  gear     : BitVec 2
  turn     : BitVec 2
  reserved : BitVec 3
  deriving DecidableEq, Repr

/-- "gear: one of {D, R, P}" (spec R80). -/
inductive Gear where
  | park
  | drive
  | reverse
  deriving DecidableEq, Repr

/-- "turnSignal: one of {L, R, N}" (spec R80). -/
inductive Turn where
  | neutral
  | left
  | right
  deriving DecidableEq, Repr

/-- The snapshot the telemetry encoder encodes (spec R10, R80). The two floating fields are bit
patterns that nothing interprets (spec R153); the angle is a two's complement pattern (spec R157). -/
structure ControlState where
  acceleration  : Word
  deceleration  : Word
  steeringAngle : Word
  handbrake     : Bool
  gear          : Gear
  turnSignal    : Turn
  deriving DecidableEq, Repr

/-- One constructor per row of spec/opcode_table.json. -/
inductive Instr where
  /-- INIT (spec R101): no operand. -/
  | init
  /-- CLEAR (spec R110): no operand. -/
  | clear
  /-- SETPIXEL (spec R113): column, row and the new value; all 256 values of each index are legal
  (spec R77). -/
  | setPixel (col row : Byte) (on : Bool)
  /-- GLYPH (spec R117): a symbol code; all 256 values are legal (spec R78). -/
  | glyph (sym : Byte)
  /-- SENDFRAME (spec R150): the operand block. -/
  | sendFrame (o : OperandBlock)
  deriving DecidableEq, Repr

end Sys2Proof
end

