-- ==== Sys2Proof/Machine/Operands.lean ====
section
/-! DEFINITION. The operand forms: pixel coordinates (spec R76, R77), the control state of an operand block
(spec R80) and the field packers of the frame (spec R7, R154 to R156). -/

namespace Sys2Proof.Machine

/-- The row byte with bit `col` set to `on`: `(row AND NOT (1 << col)) OR (zext_8(on) << col)` (spec
R113). -/
def setBit (row : Byte) (col : Nat) (on : Bool) : Byte :=
  (row &&& ~~~(1#8 <<< col)) ||| ((BitVec.ofBool on).zeroExtend 8 <<< col)

/-- The buffer after SETPIXEL: a coordinate outside 0..7 on either axis changes nothing (spec R77,
R113). -/
def setPixel (buf : Rows) (col row : Byte) (on : Bool) : Rows :=
  if h : col.toNat < 8 ∧ row.toNat < 8 then
    buf.set row.toNat (setBit buf[row.toNat] col.toNat on) h.2
  else buf

/-- Pixel (column c, row r) of the buffer is bit c of row r (spec R21). -/
def pixel (buf : Rows) (col row : Fin 8) : Bool := buf[row].getLsbD col

/-- The gear of a GEAR code (spec R80). -/
def gearOfCode (code : BitVec 2) : Option Gear :=
  match code.toNat with
  | 0 => some .park
  | 1 => some .drive
  | 2 => some .reverse
  | _ => none

/-- The turn signal of a TURN code (spec R80). -/
def turnOfCode (code : BitVec 2) : Option Turn :=
  match code.toNat with
  | 0 => some .neutral
  | 1 => some .left
  | 2 => some .right
  | _ => none

/-- The control state an operand block stands for; none where it stands for none: a fourth gear or
turn code, or a reserved operand bit that is 1 (spec R80, R188). -/
def controlState (o : OperandBlock) : Option ControlState :=
  if o.reserved = 0#3 then
    match gearOfCode o.gear, turnOfCode o.turn with
    | some g, some t => some ⟨o.acc, o.dec, o.ang, o.hb, g, t⟩
    | _, _ => none
  else none

/-- `le32`: the four bytes of a pattern, least significant first (spec R7, R52). -/
def le32 (v : Word) : List Byte :=
  [v.extractLsb' 0 8, v.extractLsb' 8 8, v.extractLsb' 16 8, v.extractLsb' 24 8]

/-- `BOOL8` (spec R154). -/
def bool8 (b : Bool) : Byte := if b then 0x01#8 else 0x00#8

/-- `GEAR8`: ASCII 'P', 'D', 'R' (spec R155). -/
def gear8 : Gear → Byte
  | .park => 0x50#8
  | .drive => 0x44#8
  | .reverse => 0x52#8

/-- `TURN8`: ASCII 'N', 'L', 'R' (spec R156). -/
def turn8 : Turn → Byte
  | .neutral => 0x4E#8
  | .left => 0x4C#8
  | .right => 0x52#8

/-- The header byte of every frame (spec R152). -/
def headerByte : Byte := 0xAA#8

/-- The 16 bytes of a frame, offset 0 first (spec R150, R151); nothing is escaped (spec R158). -/
def frame (c : ControlState) : List Byte :=
  [headerByte] ++ le32 c.acceleration ++ le32 c.deceleration ++ le32 c.steeringAngle ++
    [bool8 c.handbrake] ++ [gear8 c.gear] ++ [turn8 c.turnSignal]

end Sys2Proof.Machine
end

