-- ==== Sys2Proof/Config.lean ====
section
/-! DEFINITION. What an implementation of the block fixes and the spec leaves open (spec R6). The other
parameters of R6 are fixed numbers and stand where they are used. `LINK_TIMING` has no counterpart:
"the model itself has no time" (spec R143, log entry 10). -/

namespace Sys2Proof.Config

/-- `GLYPH_D`: OPEN (spec R6, R27; 93_implementation_defined.md U1). No body, so nothing can be
proved about its rows: a claim about them holds for every glyph. Log entry 4. -/
opaque glyphD : Rows

/-- `GLYPH_R`: OPEN, as `glyphD`. -/
opaque glyphR : Rows

/-- `GLYPH_P`: OPEN, as `glyphD`. -/
opaque glyphP : Rows

end Sys2Proof.Config
end

