-- ==== Sys2Proof/Decode.lean ====
section
/-! DEFINITION. From a token to a command and back. The first two checks of the acceptance (spec R180) are
checks of the word alone and stand here: the opcode, then the reserved bits. -/

namespace Sys2Proof

/-- Why a command word is no command (spec R81). -/
inductive Rejection where
  /-- `cmd[3:0]` is none of the five opcodes (spec R182): safe, the block records the fault. -/
  | illegalOpcode
  /-- A reserved bit of the format is 1 (spec R184): safe, the block records the fault. -/
  | reservedField
  deriving DecidableEq, Repr

/-- The five opcodes of the map (spec R75). -/
inductive Opcode where
  | init
  | clear
  | setPixel
  | glyph
  | sendFrame
  deriving DecidableEq, Repr

/-- The opcode map (spec R75): "A command word is decoded by `cmd[3:0]` alone". -/
def opcodeOf (cmd : Word) : Option Opcode :=
  match (cmd.extractLsb' 0 4).toNat with
  | 1 => some .init
  | 2 => some .clear
  | 3 => some .setPixel
  | 4 => some .glyph
  | 5 => some .sendFrame
  | _ => none

/-- `RSV(op)`: the bits of the format that must be 0 (spec R180). -/
def reservedMask : Opcode → Word
  | .init => 0xFFFFFFF0#32
  | .clear => 0xFFFFFFF0#32
  | .setPixel => 0xFF0000E0#32
  | .glyph => 0xFFFF00F0#32
  | .sendFrame => 0xFFFFFFF0#32

/-- The fields of the operand block (spec R79). -/
def OperandBlock.ofBits (v : BitVec 104) : OperandBlock where
  acc := v.extractLsb' 0 32
  dec := v.extractLsb' 32 32
  ang := v.extractLsb' 64 32
  hb := v.getLsbD 96
  gear := v.extractLsb' 97 2
  turn := v.extractLsb' 99 2
  reserved := v.extractLsb' 101 3

/-- The operand block as bits 103 down to 0 (spec R79, read from its top field down). -/
def OperandBlock.toBits (o : OperandBlock) : BitVec 104 :=
  o.reserved ++ o.turn ++ o.gear ++ BitVec.ofBool o.hb ++ o.ang ++ o.dec ++ o.acc

/-- Operand assembly: each operand is an unsigned field of the word (spec R76) or of the operand
block (spec R79). -/
def assembleOperands (t : Token) : Opcode → Instr
  | .init => .init
  | .clear => .clear
  | .setPixel => .setPixel (t.cmd.extractLsb' 8 8) (t.cmd.extractLsb' 16 8) (t.cmd.getLsbD 4)
  | .glyph => .glyph (t.cmd.extractLsb' 8 8)
  | .sendFrame => .sendFrame (.ofBits t.opnd)

/-- The decoder, total on every token: opcode first, reserved bits second (spec R75, R180). -/
def decode (t : Token) : Except Rejection Instr :=
  match opcodeOf t.cmd with
  | none => .error .illegalOpcode
  | some op =>
    if t.cmd &&& reservedMask op = 0#32 then .ok (assembleOperands t op) else .error .reservedField

/-- The token of an instruction, its word laid out field by field from the formats N, P and G (spec
R72 to R74). The operand block of a command other than SENDFRAME is "not part of the token" (spec
R79); it is filled with zeros here. -/
def encode : Instr → Token
  | .init => ⟨0#28 ++ 0x1#4, 0#104⟩
  | .clear => ⟨0#28 ++ 0x2#4, 0#104⟩
  | .setPixel col row on => ⟨0#8 ++ row ++ col ++ 0#3 ++ BitVec.ofBool on ++ 0x3#4, 0#104⟩
  | .glyph sym => ⟨0#16 ++ sym ++ 0#4 ++ 0x4#4, 0#104⟩
  | .sendFrame o => ⟨0#28 ++ 0x5#4, o.toBits⟩

/-- The token whose bits are `w`, numbered as the opcode table numbers them: the command word is bits
31 to 0 and the operand block goes on from bit 32; every bit from `nbits` up is 0. Log entry 1. -/
def tokenOfTableWord (nbits w : Nat) : Token :=
  ⟨BitVec.ofNat 32 (w % 2 ^ nbits), BitVec.ofNat 104 (w % 2 ^ nbits / 2 ^ 32)⟩

/-- What the decoder reads from an opcode-table word; none where it rejects. -/
def decodeTableWord (nbits w : Nat) : Option Instr :=
  (decode (tokenOfTableWord nbits w)).toOption

end Sys2Proof
end

