-- ==== Sys2Proof/Machine/State.lean ====
section
/-! DEFINITION. The state of the block (spec 10_state.md), the observation of a run (spec R9) and the
environment of the next steps (spec R35), as plain data; and the state after reset. -/

namespace Sys2Proof.Machine

/-- The state of one pin of the chip link: "one of `Z` (not driven), `0` or `1`" (spec R31). -/
inductive Pin where
  | z
  | low
  | high
  deriving DecidableEq, Repr

/-- The three pins of the chip link (spec R31). -/
structure Pins where
  cs  : Pin
  clk : Pin
  din : Pin
  deriving DecidableEq, Repr

/-- A link event (spec R54); the level `l` is `true` for 1. -/
inductive LinkEvent where
  | drive
  | setCS (l : Bool)
  | setCLK (l : Bool)
  | setDIN (l : Bool)
  deriving DecidableEq, Repr

/-- A work item of the sequencer: `Link(e)` or `Tx(b)` (spec R25). -/
inductive WorkItem where
  | link (e : LinkEvent)
  | tx (b : Byte)
  deriving DecidableEq, Repr

/-- A `ChipRegisterWrite`: "a (address: 8 bits, data: 8 bits) pair" (spec R10). -/
structure ChipWrite where
  addr : Byte
  data : Byte
  deriving DecidableEq, Repr

/-- The fault causes (spec R181). Their 3-bit codes are `Cause.code` in Machine/Flags.lean. -/
inductive Cause where
  | none
  | illegalOpcode
  | reservedField
  | notInit
  | reinit
  | badOperand
  deriving DecidableEq, Repr

/-- One entry of the observation of a run: an item that left the block (spec R54, R55), or a reset,
after which nothing of the interrupted command follows (spec R211). Log entry 6. -/
inductive Observed where
  | emitted (w : WorkItem)
  | resetMark
  deriving DecidableEq, Repr

/-- The input lines of the block in one step: reset (spec R210), `cmd_valid` (spec R70), `link_ready`
and `tx_ready` (spec R220). -/
structure Inputs where
  reset     : Bool
  cmdValid  : Bool
  linkReady : Bool
  txReady   : Bool
  deriving DecidableEq, Repr

/-- No reset, the host offers, both outputs are ready. -/
def Inputs.allReady : Inputs := ⟨false, true, true, true⟩

/-- Everything the spec gives the block, what a run of it shows, and the environment of the steps to
come. -/
structure State where
  /-- The pixel buffer, row 0 first (spec R20). -/
  buf : Rows
  /-- The work list of the command being executed (spec R25). -/
  pending : List WorkItem
  /-- INIT has been accepted (spec R28). -/
  initDone : Bool
  /-- A command was refused; sticky (spec R29). -/
  fault : Bool
  /-- The cause of the first refused command (spec R29). -/
  cause : Cause
  /-- The pins CS, CLK, DIN (spec R31). -/
  pins : Pins
  /-- Observation, oldest first: both traces of spec R9 in their one total order (spec R60), with a
  mark at each reset. -/
  log : List Observed
  /-- Environment: the tokens the host has still to offer, the first one on the port (spec R70). -/
  tokens : List Token
  /-- Environment: the input lines of the next steps, one record a step. -/
  upcoming : List Inputs
  /-- Environment: the input lines of every step after those of `upcoming`. -/
  settled : Inputs
  deriving DecidableEq, Repr

/-- Reasons for the machine to stop with a fault. There is none: every fault of the spec is recorded in
`fault` and `cause` and is a next state (spec R186), and what the spec calls a hang is a step that
holds (spec R220, R221). Log entry 8. -/
inductive Fault where
  deriving DecidableEq, Repr

/-- Reasons for the machine to refuse an instruction. -/
inductive Refusal where
  /-- An instruction without a meaning yet. Raised by no arm of `exec`: all five commands have their
  meaning. Safe. -/
  | notModelled (mnemonic : String)
  deriving DecidableEq, Repr

/-- The machine right after reset: every field of the block as spec R36 gives it, both traces empty
("empty at the start of a run"). The environment fields are the model's own: no token, and from the
first step on no reset, an offering host and both gates open (DESIGN CHOICE, log entries 2 and 3). -/
def State.reset : State where
  buf := #v[0x00#8, 0x00#8, 0x00#8, 0x00#8, 0x00#8, 0x00#8, 0x00#8, 0x00#8]
  pending := []
  initDone := false
  fault := false
  cause := .none
  pins := ⟨.z, .z, .z⟩
  log := []
  tokens := []
  upcoming := []
  settled := .allReady

end Sys2Proof.Machine
end

