-- ==== Sys2Proof/Machine/Flags.lean ====
section
/-! DEFINITION. The flags of the block and the STATUS port (spec R26, R28, R29, R30), and the two checks of
the acceptance that read a flag (spec R180, R183). -/

namespace Sys2Proof.Machine

/-- `busy` is `pending ≠ []` (spec R26). -/
def State.busy (s : State) : Bool := !s.pending.isEmpty

/-- `cmd_ready = not busy` (spec R26, R70). A faulted block stays ready (spec R187). -/
def State.cmdReady (s : State) : Bool := !s.busy

/-- The STATUS.CAUSE codes (spec R181). -/
def Cause.code : Cause → BitVec 3
  | .none => 0#3
  | .illegalOpcode => 1#3
  | .reservedField => 2#3
  | .notInit => 3#3
  | .reinit => 4#3
  | .badOperand => 5#3

/-- The STATUS port (spec R30), from bit 7 down: reserved, CAUSE, reserved, FAULT, INIT_DONE, BUSY. A
host read is this function of the state and changes nothing. -/
def State.status (s : State) : Byte :=
  0#1 ++ s.cause.code ++ 0#1 ++ BitVec.ofBool s.fault ++ BitVec.ofBool s.initDone ++
    BitVec.ofBool s.busy

/-- "INIT needs `init_done = 0`" (spec R28): REINIT otherwise (spec R180). -/
def State.checkNotInitialized (s : State) : Option Cause :=
  if s.initDone then some .reinit else none

/-- "Every DDP command but INIT needs `init_done = 1`" (spec R28): NOT_INIT otherwise (spec R180). -/
def State.checkInitialized (s : State) : Option Cause :=
  if s.initDone then none else some .notInit

end Sys2Proof.Machine
end

