-- ==== Sys2Proof/Machine/Link.lean ====
section
/-! DEFINITION. The chip link: what an event does to the pins (spec R54), the register-write serializer
(spec R132, R133), the flush (spec R130), and the list of configuration writes of INIT (spec R101). -/

namespace Sys2Proof.Machine

/-- A driven pin at level `l`. -/
def Pin.level (l : Bool) : Pin := if l then .high else .low

/-- All three pins not driven: the state after reset (spec R31). -/
def Pins.undriven : Pins := ⟨.z, .z, .z⟩

/-- The effect of a link event on the pins (spec R54). -/
def Pins.apply (p : Pins) : LinkEvent → Pins
  | .drive => ⟨.high, .low, .low⟩
  | .setCS l => { p with cs := .level l }
  | .setCLK l => { p with clk := .level l }
  | .setDIN l => { p with din := .level l }

/-- The sixteen bit numbers in shift order (spec R133: `for i = 15 downto 0`). -/
def shiftOrder : List Nat := [15, 14, 13, 12, 11, 10, 9, 8, 7, 6, 5, 4, 3, 2, 1, 0]

/-- One shifted bit: DIN to the bit, CLK up, CLK down (spec R133). -/
def shiftBit (b : Bool) : List LinkEvent := [.setDIN b, .setCLK true, .setCLK false]

/-- `SHIFT16` (spec R133). -/
def shift16 (w : BitVec 16) : List LinkEvent := shiftOrder.flatMap fun i => shiftBit (w.getLsbD i)

/-- `RW(a, d)`: the link events of one register write, address byte first (spec R132, R53). -/
def ChipWrite.events (w : ChipWrite) : List LinkEvent :=
  [.setCS false] ++ shift16 (w.addr ++ w.data) ++ [.setCS true]

/-- The link events of a list of register writes. -/
def linkEvents (ws : List ChipWrite) : List LinkEvent := ws.flatMap ChipWrite.events

/-- The register writes of a flush: register row + 1 gets the row, rows 0 to 7 (spec R130). -/
def rowWrites (buf : Rows) : List ChipWrite :=
  [⟨0x01#8, buf[0]⟩, ⟨0x02#8, buf[1]⟩, ⟨0x03#8, buf[2]⟩, ⟨0x04#8, buf[3]⟩,
   ⟨0x05#8, buf[4]⟩, ⟨0x06#8, buf[5]⟩, ⟨0x07#8, buf[6]⟩, ⟨0x08#8, buf[7]⟩]

/-- The five configuration writes of INIT, in their fixed order (spec R101, R102): decode mode,
intensity, scan limit, shutdown, display test. -/
def configWrites : List ChipWrite :=
  [⟨0x09#8, 0x00#8⟩, ⟨0x0A#8, 0x0F#8⟩, ⟨0x0B#8, 0x07#8⟩, ⟨0x0C#8, 0x01#8⟩, ⟨0x0F#8, 0x00#8⟩]

/-- `FLUSH()` of a buffer (spec R130). -/
def flush (buf : Rows) : List LinkEvent := linkEvents (rowWrites buf)

end Sys2Proof.Machine
end

