-- ==== Sys2Proof/Machine/Ops.lean ====
section
/-! DEFINITION. The shared operations: recording a fault, the acceptance of a command (spec R180, R186, R187),
reset (spec R210, R211), emitting one item (spec R54, R55, R220), the inputs of a step, and the reads
of the glyph table (spec R27). -/

namespace Sys2Proof.Machine

/-- The outcome type of this machine. -/
abbrev Result := Host.Outcome State Fault Refusal

/-- `raise Fault(c)`: "`fault <- 1`; `cause <- c`. Nothing else changes" (spec R186). This is the
block's only exception entry; the return from it is reset (spec R190). -/
def State.raise (s : State) (c : Cause) : State := { s with fault := true, cause := c }

/-- The acceptance of a decoded command (spec R180): a faulted block discards it (spec R187); else the
failing check, if any, raises; else the block is `done`, the state with the command's effect. -/
def State.conclude (s : State) (check : Option Cause) (done : State) : Result :=
  if s.fault then .next s
  else
    match check with
    | some c => .next (s.raise c)
    | none => .next done

/-- The fault cause of a word the decoder rejects (spec R181). -/
def causeOf : Rejection → Cause
  | .illegalOpcode => .illegalOpcode
  | .reservedField => .reservedField

/-- The acceptance of a token the decoder rejects (spec R180, R185): an existing fault goes first. -/
def State.reject (s : State) (r : Rejection) : Result := s.conclude (some (causeOf r)) s

/-- The reset event (spec R210): every piece of the block's state to its reset value, the rest of
`pending` discarded; what was emitted stays (spec R211). The host's tokens and the environment are not
the block's and stay (log entry 5). -/
def State.takeReset (s : State) : State :=
  { State.reset with
    log := s.log ++ [.resetMark], tokens := s.tokens, upcoming := s.upcoming, settled := s.settled }

/-- The input lines of this step. -/
def State.inputs (s : State) : Inputs :=
  match s.upcoming with
  | [] => s.settled
  | i :: _ => i

/-- The state with this step's input lines used up. -/
def State.advanceInputs (s : State) : State := { s with upcoming := s.upcoming.tail }

/-- The gate an item waits for (spec R220). -/
def Inputs.ready (i : Inputs) : WorkItem → Bool
  | .link _ => i.linkReady
  | .tx _ => i.txReady

/-- The pins after an item has left the block: `LinkEmit` applies its event, `TxEmit` leaves them
alone (spec R54, R55). -/
def pinsAfterItem (p : Pins) : WorkItem → Pins
  | .link e => p.apply e
  | .tx _ => p

/-- `LinkEmit(e)` and `TxEmit(b)`: the item's effect on the pins, and the item appended to the
observation (spec R54, R55). -/
def State.emit (s : State) (w : WorkItem) : State :=
  { s with pins := pinsAfterItem s.pins w, log := s.log ++ [.emitted w] }

/-- `engine_step` (spec R220): the head item leaves if its gate is open, and otherwise the step holds. -/
def State.engineStep (s : State) (i : Inputs) : State :=
  match s.pending with
  | [] => s
  | w :: rest => if i.ready w then { s with pending := rest }.emit w else s

/-- The token the block accepts in this step: the host offers one and the block is ready (spec R70). -/
def State.acceptable (s : State) (i : Inputs) : Option Token :=
  if i.cmdValid && s.cmdReady then s.tokens.head? else none

/-- The accepted token is no longer on the port. -/
def State.takeToken (s : State) : State := { s with tokens := s.tokens.tail }

/-- The all-zero buffer (spec R110). -/
def blankRows : Rows := Vector.replicate 8 0x00#8

/-- `GlyphRead(sym)`: the glyph table, closed at three symbols (spec R8, R27). -/
def glyphRead (sym : Byte) : Option Rows :=
  if sym = 0x44#8 then some Config.glyphD
  else if sym = 0x52#8 then some Config.glyphR
  else if sym = 0x50#8 then some Config.glyphP
  else none

end Sys2Proof.Machine
end

