-- ==== Sys2Proof/Machine/Display.lean ====
section
/-! DEFINITION. The display driver commands INIT, CLEAR, SETPIXEL and GLYPH (spec 40_display_driver.md). All
state effects happen in the acceptance step (spec R58, R100). -/

namespace Sys2Proof.Machine

/-- INIT (spec R101): drive the pins, the five configuration writes, the flush of the buffer. REINIT
when it has been accepted before (spec R103, R183). -/
def execInit (s : State) : Result :=
  s.conclude s.checkNotInitialized
    { s with
      initDone := true
      pending := ([LinkEvent.drive] ++ linkEvents configWrites ++ flush s.buf).map WorkItem.link }

/-- CLEAR (spec R110): every pixel off, nothing emitted. -/
def execClear (s : State) : Result :=
  s.conclude s.checkInitialized { s with buf := blankRows, pending := [] }

/-- SETPIXEL (spec R113): one pixel set or cleared; out of range, nothing changes. Nothing emitted. -/
def execSetPixel (col row : Byte) (on : Bool) (s : State) : Result :=
  s.conclude s.checkInitialized { s with buf := setPixel s.buf col row on, pending := [] }

/-- The buffer GLYPH leaves: the glyph of a known symbol, row for row (spec R118), and a blank buffer
for an unknown one (spec R117). -/
def glyphRows (sym : Byte) : Rows := (glyphRead sym).getD blankRows

/-- GLYPH (spec R117): render the symbol and flush the new buffer (spec R119). -/
def execGlyph (sym : Byte) (s : State) : Result :=
  s.conclude s.checkInitialized
    { s with buf := glyphRows sym, pending := (flush (glyphRows sym)).map WorkItem.link }

end Sys2Proof.Machine
end

