-- ==== Sys2Proof/Machine/Telemetry.lean ====
section
/-! DEFINITION. The telemetry frame encoder's command SENDFRAME (spec 42_telemetry_frame.md). -/

namespace Sys2Proof.Machine

/-- SENDFRAME (spec R150): the frame of the control state, one byte an item. An operand block that
stands for no control state takes BAD_OPERAND (spec R188). It needs no INIT (spec R183). -/
def execSendFrame (o : OperandBlock) (s : State) : Result :=
  match controlState o with
  | none => s.conclude (some .badOperand) s
  | some c => s.conclude none { s with pending := (frame c).map WorkItem.tx }

end Sys2Proof.Machine
end

