-- ==== Sys2Proof/Machine/Dispatch.lean ====
section
/-! DEFINITION. The meaning of each command: one arm per constructor of `Instr`. -/

namespace Sys2Proof.Machine

def exec (i : Instr) (s : State) : Host.Outcome State Fault Refusal :=
  match i with
  | .init => Sys2Proof.Machine.execInit s
  | .clear => Sys2Proof.Machine.execClear s
  | .setPixel col row on => Sys2Proof.Machine.execSetPixel col row on s
  | .glyph sym => Sys2Proof.Machine.execGlyph sym s
  | .sendFrame o => Sys2Proof.Machine.execSendFrame o s

end Sys2Proof.Machine
end

