-- ==== Sys2Proof/Machine/Step.lean ====
section
/-! DEFINITION. One step of the block: reset, or one item of the work list, or the acceptance of a token, or
nothing (spec R180, R210, R220). -/

namespace Sys2Proof.Machine

/-- `accept(cmd, opnd)` (spec R180): the checks of the word, then the command. -/
def accept (t : Token) (s : State) : Host.Outcome State Fault Refusal :=
  match decode t with
  | .error r => s.reject r
  | .ok i => exec i s

/-- One step. Reset "takes effect at once, whatever the block is doing" (spec R210). A busy block runs
one engine step (spec R220) and an idle one accepts the token offered, if any (spec R70); a block with
no token to accept waits (spec R212). -/
def step (s : State) : Host.Outcome State Fault Refusal :=
  if s.inputs.reset then .next s.advanceInputs.takeReset
  else if s.busy then .next (s.advanceInputs.engineStep s.inputs)
  else
    match s.acceptable s.inputs with
    | some t => accept t s.advanceInputs.takeToken
    | none => .next s.advanceInputs

/-- `s` with the token of an opcode-table word first on the command port of an idle block, and input
lines for the next step that let it be accepted; then the environment goes on as before (log entry
1). -/
def State.withFetchWord (s : State) (nbits w : Nat) : State :=
  { s with
    pending := []
    tokens := tokenOfTableWord nbits w :: s.tokens
    upcoming := .allReady :: s.upcoming }

end Sys2Proof.Machine
end

