-- ==== Sys2Proof/Machine/Assembler.lean ====
section
/-! DEFINITION. The textual syntax of a host command stream (spec R83) and the pseudo-commands (spec R84).
The block never sees text: this is how the host writes its tokens down. The corners of the syntax that
R83 leaves open are in log entry 11. -/

namespace Sys2Proof.Machine

/-- `PIXON <col>, <row>` (spec R84). -/
def pixOn (col row : Byte) : Instr := .setPixel col row true

/-- `PIXOFF <col>, <row>` (spec R84). -/
def pixOff (col row : Byte) : Instr := .setPixel col row false

/-- `BLANK`: GLYPH of an unknown symbol (spec R84). -/
def blank : Instr := .glyph 0x00#8

/-- White space inside a line. -/
def isSpace (c : Char) : Bool := c == ' ' || c == '\t' || c == '\r'

/-- The text without white space at its two ends. -/
def trimSpaces (cs : List Char) : List Char :=
  ((cs.dropWhile isSpace).reverse.dropWhile isSpace).reverse

/-- The line up to its comment, "`;` starting a comment" (spec R83). DESIGN CHOICE (log entry 11), since
R83 does not say how a comment and a character literal meet: from left to right, a quote, any
character and a quote are passed over as one literal, so the semicolon of `';'` starts no comment and
the one right after `'D'` does. -/
def stripComment : List Char → List Char
  | [] => []
  | '\'' :: l :: '\'' :: cs => '\'' :: l :: '\'' :: stripComment cs
  | c :: cs => if c == ';' then [] else c :: stripComment cs

/-- The parts of a text between the separators. -/
def splitAt (sep : Char) : List Char → List (List Char)
  | [] => [[]]
  | c :: cs =>
    if c == sep then [] :: splitAt sep cs
    else
      match splitAt sep cs with
      | [] => [[c]]
      | w :: ws => (c :: w) :: ws

/-- The value of a decimal digit. -/
def decDigit (c : Char) : Option Nat :=
  if '0'.toNat ≤ c.toNat ∧ c.toNat ≤ '9'.toNat then some (c.toNat - '0'.toNat) else none

/-- The value of a hexadecimal digit of either case. -/
def hexDigit (c : Char) : Option Nat :=
  if 'a'.toNat ≤ c.toNat ∧ c.toNat ≤ 'f'.toNat then some (c.toNat - 'a'.toNat + 10)
  else if 'A'.toNat ≤ c.toNat ∧ c.toNat ≤ 'F'.toNat then some (c.toNat - 'A'.toNat + 10)
  else decDigit c

/-- The number a run of digits stands for, after a prefix worth `acc`. -/
def digitsValue (digit : Char → Option Nat) (base acc : Nat) : List Char → Option Nat
  | [] => some acc
  | c :: cs =>
    match digit c with
    | none => none
    | some d => digitsValue digit base (acc * base + d) cs

/-- A number of at least one decimal digit. -/
def decNumber : List Char → Option Nat
  | [] => none
  | c :: cs => digitsValue decDigit 10 0 (c :: cs)

/-- A `0x..` pattern of at least one digit, and of any number of them: R83 does not say how many (DESIGN
CHOICE, log entry 11). -/
def hexNumber : List Char → Option Nat
  | '0' :: 'x' :: c :: cs => digitsValue hexDigit 16 0 (c :: cs)
  | _ => none

/-- `<col>`, `<row>`: "integers 0..255, written decimal or `0x..` hex" (spec R83). -/
def byteOperand (cs : List Char) : Option Byte :=
  match (hexNumber cs).or (decNumber cs) with
  | none => none
  | some n => if n < 256 then some (BitVec.ofNat 8 n) else none

/-- `<sym>`: as `<col>`, or "a character literal `'D'` meaning its ASCII code" (spec R83). -/
def symOperand : List Char → Option Byte
  | ['\'', c, '\''] => if c.toNat < 128 then some (BitVec.ofNat 8 c.toNat) else none
  | cs => byteOperand cs

/-- `<on>` and `<bool>`: "`0`, `1`, `false` or `true`" (spec R83). -/
def boolOperand (cs : List Char) : Option Bool :=
  if cs = ['0'] ∨ cs = ['f', 'a', 'l', 's', 'e'] then some false
  else if cs = ['1'] ∨ cs = ['t', 'r', 'u', 'e'] then some true
  else none

/-- A `0x..` pattern of 32 bits (spec R83). DESIGN CHOICE (log entry 11): it may have fewer or more than
eight digits, as long as its value is below 2^32, and stands for that value. -/
def patternOperand (cs : List Char) : Option Word :=
  match hexNumber cs with
  | none => none
  | some n => if n < 2 ^ 32 then some (BitVec.ofNat 32 n) else none

/-- `<s32>`: "a decimal integer in -2^31 .. 2^31-1 or a `0x..` pattern of 32 bits" (spec R83). -/
def s32Operand (cs : List Char) : Option Word :=
  match cs with
  | '-' :: ds =>
    match decNumber ds with
    | none => none
    | some n => if n ≤ 2 ^ 31 then some (-BitVec.ofNat 32 n) else none
  | _ =>
    (patternOperand cs).or
      (match decNumber cs with
       | none => none
       | some n => if n < 2 ^ 31 then some (BitVec.ofNat 32 n) else none)

/-- The integer nearest to `n / d`, the even one of two that are equally near. -/
def roundHalfEven (n d : Nat) : Nat :=
  let q := n / d
  let r := n % d
  if 2 * r < d then q else if d < 2 * r then q + 1 else q + q % 2

/-- The magnitude bits of the binary32 value nearest to `n / d`: "rounded to nearest-even" (spec R83,
93_implementation_defined.md G2). The exponent is that of the leading bit, at least -126; a value
rounded past the largest finite one becomes infinity (log entry 11). -/
def binary32Magnitude (n d : Nat) : Nat :=
  if n = 0 then 0
  else
    let near : Int := (n.log2 : Int) - (d.log2 : Int)
    let lead : Int := if d * 2 ^ n.log2 ≤ n * 2 ^ d.log2 then near else near - 1
    let e : Int := max lead (-126)
    let m := roundHalfEven (n * 2 ^ (23 - e).toNat) (d * 2 ^ (e - 23).toNat)
    min ((e + 126).toNat * 2 ^ 23 + m) 0x7F800000

/-- The magnitude of a decimal literal: digits, and optionally a point and more digits. -/
def decimalMagnitude (cs : List Char) : Option Nat :=
  match splitAt '.' cs with
  | [whole] => (decNumber whole).map fun n => binary32Magnitude n 1
  | [whole, part] =>
    match decNumber whole, decNumber part with
    | some n, some _ =>
      (digitsValue decDigit 10 n part).map fun v => binary32Magnitude v (10 ^ part.length)
    | _, _ => none
  | _ => none

/-- `<f32>`: a `0x..` pattern of 32 bits, or a decimal literal (spec R83). -/
def f32Operand (cs : List Char) : Option Word :=
  match cs with
  | '-' :: ds => (decimalMagnitude ds).map fun v => BitVec.ofNat 32 (2 ^ 31 + v)
  | _ => (patternOperand cs).or ((decimalMagnitude cs).map fun v => BitVec.ofNat 32 v)

/-- The GEAR code of a gear letter (spec R80, R83). -/
def gearOperand (cs : List Char) : Option (BitVec 2) :=
  if cs = ['P'] then some 0b00#2
  else if cs = ['D'] then some 0b01#2
  else if cs = ['R'] then some 0b10#2
  else none

/-- The TURN code of a turn letter (spec R80, R83). -/
def turnOperand (cs : List Char) : Option (BitVec 2) :=
  if cs = ['N'] then some 0b00#2
  else if cs = ['L'] then some 0b01#2
  else if cs = ['R'] then some 0b10#2
  else none

/-- The value of a `key=value` part. -/
def keyed (key : List Char) (part : List Char) : Option (List Char) :=
  match splitAt '=' part with
  | [k, v] => if trimSpaces k = key then some (trimSpaces v) else none
  | _ => none

/-- The operands of SENDFRAME, in the order of the syntax (spec R83). -/
def sendFrameOperands : List (List Char) → Option OperandBlock
  | [a, d, g, h, r, t] =>
    match (keyed ['a', 'c', 'c'] a).bind f32Operand, (keyed ['d', 'e', 'c'] d).bind f32Operand,
      (keyed ['a', 'n', 'g'] g).bind s32Operand, (keyed ['h', 'b'] h).bind boolOperand,
      (keyed ['g', 'e', 'a', 'r'] r).bind gearOperand,
      (keyed ['t', 'u', 'r', 'n'] t).bind turnOperand with
    | some acc, some dec, some ang, some hb, some gear, some turn =>
      some ⟨acc, dec, ang, hb, gear, turn, 0#3⟩
    | _, _, _, _, _, _ => none
  | _ => none

/-- The operands of PIXON and PIXOFF. -/
def pixelOperands : List (List Char) → Option (Byte × Byte)
  | [c, r] =>
    match byteOperand c, byteOperand r with
    | some col, some row => some (col, row)
    | _, _ => none
  | _ => none

/-- The operands of SETPIXEL. -/
def setPixelOperands : List (List Char) → Option Instr
  | [c, r, o] =>
    match byteOperand c, byteOperand r, boolOperand o with
    | some col, some row, some on => some (.setPixel col row on)
    | _, _, _ => none
  | _ => none

/-- One line of the stream: none where it is no line of the syntax, no command where it is blank or
only a comment (spec R83, R84). -/
def assembleLine (line : List Char) : Option (List Instr) :=
  let text := trimSpaces (stripComment line)
  let name := text.takeWhile fun c => !isSpace c
  let rest := trimSpaces (text.dropWhile fun c => !isSpace c)
  let parts := (splitAt ',' rest).map trimSpaces
  if text = [] then some []
  else if name = ['I', 'N', 'I', 'T'] then if rest = [] then some [.init] else none
  else if name = ['C', 'L', 'E', 'A', 'R'] then if rest = [] then some [.clear] else none
  else if name = ['B', 'L', 'A', 'N', 'K'] then if rest = [] then some [blank] else none
  else if name = ['S', 'E', 'T', 'P', 'I', 'X', 'E', 'L'] then
    (setPixelOperands parts).map fun i => [i]
  else if name = ['P', 'I', 'X', 'O', 'N'] then (pixelOperands parts).map fun p => [pixOn p.1 p.2]
  else if name = ['P', 'I', 'X', 'O', 'F', 'F'] then
    (pixelOperands parts).map fun p => [pixOff p.1 p.2]
  else if name = ['G', 'L', 'Y', 'P', 'H'] then (symOperand rest).map fun s => [.glyph s]
  else if name = ['S', 'E', 'N', 'D', 'F', 'R', 'A', 'M', 'E'] then
    (sendFrameOperands parts).map fun o => [.sendFrame o]
  else none

/-- The commands of the lines of a stream, in order; none where a line is none of the syntax. -/
def assembleLines : List (List Char) → Option (List Instr)
  | [] => some []
  | l :: ls =>
    match assembleLine l, assembleLines ls with
    | some is, some more => some (is ++ more)
    | _, _ => none

/-- The tokens of a command stream, "one command per line" (spec R83). -/
def assemble (text : String) : Option (List Token) :=
  (assembleLines (splitAt '\n' text.toList)).map fun is => is.map encode

end Sys2Proof.Machine
end

