-- ==== Sys2Proof/Machine/Pseudocode.lean ====
section
/-! DEFINITION. The acceptance of a token as spec R180 writes it down: one chain of checks on the bits of the
token, then the command's pseudocode (spec R101, R110, R113, R117, R150). The machine does not use this
text: Obligations.AcceptanceIsThePseudocode says that the decoder, the dispatch and the meanings
together do the same. -/

namespace Sys2Proof.Machine

/-- `RSV(op)` as R180 lists it. -/
def reservedBitsOf (op : BitVec 4) : Word :=
  if op = 0x3#4 then 0xFF0000E0#32
  else if op = 0x4#4 then 0xFFFF00F0#32
  else 0xFFFFFFF0#32

/-- The operand check of R180, on the bits of the operand block. -/
def badOperandBits (opnd : BitVec 104) : Bool :=
  opnd.extractLsb' 97 2 == 0b11#2 || opnd.extractLsb' 99 2 == 0b11#2 ||
    opnd.extractLsb' 101 3 != 0#3

/-- The frame of R150, byte by byte from the bits of the operand block, with the codes of R154 to R156
written out. -/
def frameBits (opnd : BitVec 104) : List Byte :=
  [0xAA#8,
   opnd.extractLsb' 0 8, opnd.extractLsb' 8 8, opnd.extractLsb' 16 8, opnd.extractLsb' 24 8,
   opnd.extractLsb' 32 8, opnd.extractLsb' 40 8, opnd.extractLsb' 48 8, opnd.extractLsb' 56 8,
   opnd.extractLsb' 64 8, opnd.extractLsb' 72 8, opnd.extractLsb' 80 8, opnd.extractLsb' 88 8,
   if opnd.getLsbD 96 then 0x01#8 else 0x00#8,
   if opnd.extractLsb' 97 2 = 0b00#2 then 0x50#8
   else if opnd.extractLsb' 97 2 = 0b01#2 then 0x44#8 else 0x52#8,
   if opnd.extractLsb' 99 2 = 0b00#2 then 0x4E#8
   else if opnd.extractLsb' 99 2 = 0b01#2 then 0x4C#8 else 0x52#8]

/-- `execute(op)` of R180 for a token that has passed every check. -/
def executeBits (t : Token) (s : State) : State :=
  let op := t.cmd.extractLsb' 0 4
  if op = 0x1#4 then
    { s with
      initDone := true
      pending :=
        (LinkEvent.drive ::
          linkEvents
            [⟨0x09#8, 0x00#8⟩, ⟨0x0A#8, 0x0F#8⟩, ⟨0x0B#8, 0x07#8⟩, ⟨0x0C#8, 0x01#8⟩, ⟨0x0F#8, 0x00#8⟩,
             ⟨0x01#8, s.buf[0]⟩, ⟨0x02#8, s.buf[1]⟩, ⟨0x03#8, s.buf[2]⟩, ⟨0x04#8, s.buf[3]⟩,
             ⟨0x05#8, s.buf[4]⟩, ⟨0x06#8, s.buf[5]⟩, ⟨0x07#8, s.buf[6]⟩, ⟨0x08#8, s.buf[7]⟩]).map
          WorkItem.link }
  else if op = 0x2#4 then
    { s with buf := #v[0x00#8, 0x00#8, 0x00#8, 0x00#8, 0x00#8, 0x00#8, 0x00#8, 0x00#8], pending := [] }
  else if op = 0x3#4 then
    let col := (t.cmd.extractLsb' 8 8).toNat
    let row := (t.cmd.extractLsb' 16 8).toNat
    let on := (t.cmd.extractLsb' 4 1).zeroExtend 8
    if h : col < 8 ∧ row < 8 then
      { s with
        buf := s.buf.set row ((s.buf[row] &&& ~~~(1#8 <<< col)) ||| (on <<< col)) h.2
        pending := [] }
    else { s with pending := [] }
  else if op = 0x4#4 then
    let sym := t.cmd.extractLsb' 8 8
    let g : Rows :=
      if sym = 0x44#8 then Config.glyphD
      else if sym = 0x52#8 then Config.glyphR
      else if sym = 0x50#8 then Config.glyphP
      else #v[0x00#8, 0x00#8, 0x00#8, 0x00#8, 0x00#8, 0x00#8, 0x00#8, 0x00#8]
    { s with
      buf := g
      pending :=
        (linkEvents
          [⟨0x01#8, g[0]⟩, ⟨0x02#8, g[1]⟩, ⟨0x03#8, g[2]⟩, ⟨0x04#8, g[3]⟩,
           ⟨0x05#8, g[4]⟩, ⟨0x06#8, g[5]⟩, ⟨0x07#8, g[6]⟩, ⟨0x08#8, g[7]⟩]).map WorkItem.link }
  else { s with pending := (frameBits t.opnd).map WorkItem.tx }

/-- `accept(cmd, opnd)` of R180, line by line. -/
def acceptBits (t : Token) (s : State) : State :=
  let op := t.cmd.extractLsb' 0 4
  if s.fault then s
  else if ¬(op = 0x1#4 ∨ op = 0x2#4 ∨ op = 0x3#4 ∨ op = 0x4#4 ∨ op = 0x5#4) then
    { s with fault := true, cause := .illegalOpcode }
  else if t.cmd &&& reservedBitsOf op ≠ 0#32 then
    { s with fault := true, cause := .reservedField }
  else if op = 0x1#4 ∧ s.initDone = true then { s with fault := true, cause := .reinit }
  else if (op = 0x2#4 ∨ op = 0x3#4 ∨ op = 0x4#4) ∧ s.initDone = false then
    { s with fault := true, cause := .notInit }
  else if op = 0x5#4 ∧ badOperandBits t.opnd = true then
    { s with fault := true, cause := .badOperand }
  else executeBits t s

end Sys2Proof.Machine
end

