-- ==== Sys2Proof/Machine/Observe.lean ====
section
/-! DEFINITION. What can be read off the observation of a run: the two traces (spec R9), the pin levels they
leave, the register writes a link trace carries (spec R137), and the chip view (spec R141), which is an
observation aid and not part of the block. -/

namespace Sys2Proof.Machine

/-- The link event of an entry, if it is one. -/
def Observed.linkEvent : Observed → Option LinkEvent
  | .emitted (.link e) => some e
  | .emitted (.tx _) => none
  | .resetMark => none

/-- The byte of an entry, if it is one. -/
def Observed.txByte : Observed → Option Byte
  | .emitted (.tx b) => some b
  | .emitted (.link _) => none
  | .resetMark => none

/-- `link_trace` (spec R9, R54). -/
def State.linkTrace (s : State) : List LinkEvent := s.log.filterMap Observed.linkEvent

/-- `tx_trace` (spec R9, R55). -/
def State.txTrace (s : State) : List Byte := s.log.filterMap Observed.txByte

/-- The pins after one more entry of the observation: reset leaves them undriven (spec R210). -/
def pinsAfterEntry (p : Pins) : Observed → Pins
  | .emitted w => pinsAfterItem p w
  | .resetMark => .undriven

/-- The pins a whole observation leaves, from the undriven pins a run begins with. -/
def pinsOfLog (log : List Observed) : Pins := log.foldl pinsAfterEntry .undriven

/-- The level of a driven pin. -/
def Pin.bit : Pin → Option Bool
  | .z => none
  | .low => some false
  | .high => some true

/-- The levels of a list of samples, where all of them are driven. -/
def sampledBits : List Pin → Option (List Bool)
  | [] => some []
  | p :: ps =>
    match p.bit, sampledBits ps with
    | some b, some bs => some (b :: bs)
    | _, _ => none

/-- The byte of eight bits, most significant first (spec R53). -/
def byteOfBits (bs : List Bool) : Byte :=
  bs.foldl (fun acc b => (acc <<< 1) ||| (BitVec.ofBool b).zeroExtend 8) 0x00#8

/-- The write of a finished list of samples: exactly 16 bits, address first; "A bit list of another
length outputs nothing" (spec R137). Samples of an undriven pin give no write (log entry 7). -/
def writeOfSamples (samples : List Pin) : Option ChipWrite :=
  match sampledBits samples with
  | none => none
  | some bs =>
    if bs.length = 16 then some ⟨byteOfBits (bs.take 8), byteOfBits (bs.drop 8)⟩ else none

/-- The list of samples being collected, after an event that finds the pins at `p` (spec R137):
`SetCS(0)` starts one, `SetCLK(1)` while CS = 0 appends the DIN level, `SetCS(1)` ends it, and so does
`Drive`, which raises CS (log entry 7). -/
def samplesAfter (p : Pins) (samples : Option (List Pin)) : LinkEvent → Option (List Pin)
  | .drive => none
  | .setCS l => if l then none else some []
  | .setCLK l => if l && p.cs == .low then samples.map (· ++ [p.din]) else samples
  | .setDIN _ => samples

/-- The write an event completes: `SetCS(1)` at the end of a list of samples (spec R137). -/
def completedWrite (samples : Option (List Pin)) : LinkEvent → Option ChipWrite
  | .setCS l => if l then samples.bind writeOfSamples else none
  | .drive => none
  | .setCLK _ => none
  | .setDIN _ => none

/-- The scan of a link trace that `writes` is defined by (spec R137). -/
def scanWrites (p : Pins) (samples : Option (List Pin)) : List LinkEvent → List ChipWrite
  | [] => []
  | e :: es =>
    (completedWrite samples e).toList ++ scanWrites (p.apply e) (samplesAfter p samples e) es

/-- `writes(link_trace)` (spec R137), "defined on the trace alone". -/
def writes (trace : List LinkEvent) : List ChipWrite := scanWrites .undriven none trace

/-- The link events since the last reset, after one more entry of the observation. -/
def eventsAfterEntry (es : List LinkEvent) : Observed → List LinkEvent
  | .emitted (.link e) => es ++ [e]
  | .emitted (.tx _) => es
  | .resetMark => []

/-- The link events that were emitted since the last reset, or since the run began. -/
def eventsSinceReset (log : List Observed) : List LinkEvent := log.foldl eventsAfterEntry []

/-- The data of the last write to a register; none where there was no write (spec R141: "a register
never written holds an unknown value, not zero"). -/
def lastWriteTo (k : Byte) (ws : List ChipWrite) : Option Byte :=
  (ws.reverse.find? fun w => w.addr == k).map ChipWrite.data

/-- The chip view (spec R141): what register `k` of the display chip holds, where that is known: the data
of the last write to it since the last reset. A reset makes every register unknown (spec R211, R213;
93_implementation_defined.md U7, U8) until INIT writes it. PRESUMED (log
entry 9): the chip is present and correctly wired, where the spec allows any value otherwise (spec R136,
93_implementation_defined.md U6). -/
def State.chipRegister (s : State) (k : Byte) : Option Byte :=
  lastWriteTo k (writes (eventsSinceReset s.log))

end Sys2Proof.Machine
end

