-- ==== Sys2Proof/Safety.lean ====
section
/-! DEFINITION. What a good state of the block is: the invariant of every step, and the two predicates of the
end of a run (spec R227). -/

namespace Sys2Proof.Machine

/-- All three pins are driven outputs (spec R134). -/
def Pins.driven (p : Pins) : Bool := p.cs != .z && p.clk != .z && p.din != .z

/-- The pins between writes, once driven: CS = 1, CLK = 0 (spec R32). -/
def Pins.resting (p : Pins) : Bool := p.driven && p.cs == .high && p.clk == .low

/-- What spec R135 and R134 ask of an event that finds the pins at `p`: CLK is 0 when CS changes, CLK
changes only while CS = 0, DIN changes only while CLK = 0, `Drive` comes once, and it alone finds the
pins undriven. -/
def eventAllowed (p : Pins) : LinkEvent → Bool
  | .drive => p == .undriven
  | .setCS _ => p.driven && p.clk == .low
  | .setCLK _ => p.driven && p.cs == .low
  | .setDIN _ => p.driven && p.clk == .low

/-- The items still to be emitted keep the pin rules of spec R135 from the pins `p` on, and leave the
pins undriven or at rest (spec R32). -/
def itemsAllowed (p : Pins) : List WorkItem → Bool
  | [] => p == .undriven || p.resting
  | .tx _ :: ws => itemsAllowed p ws
  | .link e :: ws => eventAllowed p e && itemsAllowed (p.apply e) ws

/-- The pins are driven, or about to be by the first item of INIT (spec R134). -/
def State.drivenOrDriving (s : State) : Prop :=
  s.pins.driven = true ∨ ∃ ws, s.pending = .link .drive :: ws

/-- Nothing of the chip link is still to be emitted. -/
def State.noLinkPending (s : State) : Prop := ∀ e, WorkItem.link e ∉ s.pending

/-- The invariant of the block: it holds after reset and every step keeps it. -/
structure Inv (s : State) : Prop where
  /-- "`cause` ... is 0 while `fault = 0`" (spec R29), and a recorded fault has a cause. -/
  causeAgrees : s.fault = false ↔ s.cause = .none
  /-- "`buf` is all zero whenever INIT is accepted" (spec R101): before INIT nothing writes it. -/
  blankBeforeInit : s.initDone = false → s.buf = blankRows
  /-- Before INIT the pins are undriven and no link event is on its way (spec R31). -/
  undrivenBeforeInit : s.initDone = false → s.pins = .undriven ∧ s.noLinkPending
  /-- After INIT the pins are driven, or INIT's first item has not left yet (spec R134). -/
  drivenAfterInit : s.initDone = true → s.drivenOrDriving
  /-- What is still to be emitted keeps the pin rules (spec R32, R135). -/
  pendingAllowed : itemsAllowed s.pins s.pending = true
  /-- The pins are the ones the observation leaves (spec R54). -/
  pinsAgree : s.pins = pinsOfLog s.log
  /-- A block that refused a command is idle, so it stays ready and emits nothing (spec R186, R187). -/
  idleWhenFaulted : s.fault = true → s.pending = []

/-- In this step the host offers token `t`, with `ts` to follow, and the block can accept it: no reset,
`cmd_valid = 1`, and not busy (spec R70). -/
structure State.Offers (s : State) (t : Token) (ts : List Token) : Prop where
  noReset : s.inputs.reset = false
  valid : s.inputs.cmdValid = true
  idle : s.pending = []
  onPort : s.tokens = t :: ts

/-- The state with the token accepted and the step's input lines used up, before the command's effect. -/
def State.accepting (s : State) (ts : List Token) : State :=
  { s with tokens := ts, upcoming := s.upcoming.tail }

/-- The input lines of the step `k` steps from now, step 0 being the next one (spec R35). -/
def State.inputsAt (s : State) (k : Nat) : Inputs := s.upcoming[k]?.getD s.settled

/-- From now on nobody resets the block, the host offers its tokens, and both gates are open. -/
def State.smoothRun (s : State) : Prop := s.upcoming = [] ∧ s.settled = .allReady

/-- The commands of a list, one after the other, each as soon as the one before it is accepted: the
state effects alone, without their output. -/
def execList : List Instr → State → Result
  | [], s => .next s
  | i :: is, s =>
    match exec i s with
    | .next s' => execList is s'
    | .fault r => .fault r
    | .refused r => .refused r

/-- One SETPIXEL for each set bit of a glyph (spec R118). -/
def litPixels (g : Rows) : List Instr :=
  (List.finRange 8).flatMap fun r : Fin 8 =>
    ((List.finRange 8).filter fun c : Fin 8 => pixel g c r).map fun c : Fin 8 =>
      .setPixel (BitVec.ofNat 8 c.val) (BitVec.ofNat 8 r.val) true

/-- The 16 bytes an operand block gives; no bytes where it stands for no control state. -/
def frameOf (o : OperandBlock) : List Byte := ((controlState o).map frame).getD []

/-- No fault is recorded: what "a claim about a run assumes" (spec R187). -/
def State.faultFree (s : State) : Bool := !s.fault

/-- "A run ends when the host has no further token to offer and `pending = []`" (spec R227). -/
def State.runEnded (s : State) : Bool := s.tokens.isEmpty && s.pending.isEmpty

end Sys2Proof.Machine
end

