-- ==== Sys2Proof/WellFormed.lean ====
section
/-! DEFINITION. Which instructions stand for something: the only operands the spec calls illegal are codes in
the operand block of SENDFRAME (spec R81, R188). -/

namespace Sys2Proof

/-- The operand block can stand for a control state: no fourth gear or turn code, and operand bits
103:101 are 0 (spec R81, R188). "ACC, DEC, ANG and HB have no illegal values." -/
def OperandBlock.wf (o : OperandBlock) : Bool :=
  o.gear != 0b11#2 && o.turn != 0b11#2 && o.reserved == 0#3

/-- Column, row and symbol operands have no illegal value (spec R77, R78). An instruction that is not
well formed still has a meaning: it takes the fault BAD_OPERAND (spec R180). -/
def Instr.wf : Instr → Bool
  | .init => true
  | .clear => true
  | .setPixel _ _ _ => true
  | .glyph _ => true
  | .sendFrame o => o.wf

end Sys2Proof
end

