-- ==== Sys2Proof/Certificates/Slice0/Obligations.lean ====
section
/-! DEFINITION. The statements for the provers. Each formalises what the rule of the spec named in its
docstring says the block does. Where one rests on a reading of the model's own, its docstring names the
log entry. -/

open Sys2Proof Sys2Proof.Machine

/-! ## Encoding -/

/-- R72 to R74, R76, R79: no bit of an encoding is dropped. For every instruction, well formed or not, with
every operand at every value. -/
def Obligations.DecodeInvertsEncode : Prop :=
  ∀ i : Instr, decode (encode i) = .ok i

/-- R71, R75, R82: every command word has one meaning, and a SENDFRAME token (with its operand block)
has one. -/
def Obligations.DecodedTokenIsItsEncoding : Prop :=
  ∀ (t : Token) (i : Instr), decode t = .ok i →
    (encode i).cmd = t.cmd ∧ ∀ o, i = .sendFrame o → encode i = t

/-- R182: a word is rejected as ILLEGAL_OPCODE exactly when its opcode field is none of the five. -/
def Obligations.IllegalOpcodeIsAnyOtherOpcodeField : Prop :=
  ∀ t : Token,
    decode t = .error .illegalOpcode ↔
      t.cmd.extractLsb' 0 4 ∉ [0x1#4, 0x2#4, 0x3#4, 0x4#4, 0x5#4]

/-- R184: a word is rejected as RESERVED_FIELD exactly when its opcode is legal and a reserved bit of its
format (R72 to R74) is 1. -/
def Obligations.ReservedFieldIsAnyReservedBit : Prop :=
  ∀ t : Token,
    decode t = .error .reservedField ↔
      (t.cmd.extractLsb' 0 4 ∈ [0x1#4, 0x2#4, 0x5#4] ∧ t.cmd.extractLsb' 4 28 ≠ 0#28) ∨
      (t.cmd.extractLsb' 0 4 = 0x3#4 ∧
        (t.cmd.extractLsb' 24 8 ≠ 0#8 ∨ t.cmd.extractLsb' 5 3 ≠ 0#3)) ∨
      (t.cmd.extractLsb' 0 4 = 0x4#4 ∧
        (t.cmd.extractLsb' 16 16 ≠ 0#16 ∨ t.cmd.extractLsb' 4 4 ≠ 0#4))

/-- R76, R79: where each operand of a decoded command comes from. -/
def Obligations.OperandsAreTheFieldsOfTheToken : Prop :=
  (∀ (t : Token) (col row : Byte) (on : Bool), decode t = .ok (.setPixel col row on) →
    col = t.cmd.extractLsb' 8 8 ∧ row = t.cmd.extractLsb' 16 8 ∧ on = t.cmd.getLsbD 4) ∧
  (∀ (t : Token) (sym : Byte), decode t = .ok (.glyph sym) → sym = t.cmd.extractLsb' 8 8) ∧
  (∀ (t : Token) (o : OperandBlock), decode t = .ok (.sendFrame o) →
    o.acc = t.opnd.extractLsb' 0 32 ∧ o.dec = t.opnd.extractLsb' 32 32 ∧
    o.ang = t.opnd.extractLsb' 64 32 ∧ o.hb = t.opnd.getLsbD 96 ∧
    o.gear = t.opnd.extractLsb' 97 2 ∧ o.turn = t.opnd.extractLsb' 99 2 ∧
    o.reserved = t.opnd.extractLsb' 101 3)

/-- R87: the example words of the spec decode to the commands they stand for. -/
def Obligations.ExampleWordsDecode : Prop :=
  decode ⟨0x00000001#32, 0#104⟩ = .ok .init ∧
  decode ⟨0x00000002#32, 0#104⟩ = .ok .clear ∧
  decode ⟨0x00050313#32, 0#104⟩ = .ok (.setPixel 3#8 5#8 true) ∧
  decode ⟨0x00000703#32, 0#104⟩ = .ok (.setPixel 7#8 0#8 false) ∧
  decode ⟨0x00000813#32, 0#104⟩ = .ok (.setPixel 8#8 0#8 true) ∧
  decode ⟨0x00004404#32, 0#104⟩ = .ok (.glyph 0x44#8) ∧
  decode ⟨0x00005204#32, 0#104⟩ = .ok (.glyph 0x52#8) ∧
  decode ⟨0x00005004#32, 0#104⟩ = .ok (.glyph 0x50#8) ∧
  decode ⟨0x00000005#32, 0x03FFFFFFD6000000003FC00000#104⟩ =
    .ok (.sendFrame ⟨0x3FC00000#32, 0x00000000#32, 0xFFFFFFD6#32, true, 0b01#2, 0b00#2, 0b000#3⟩)

/-- R84: the words of the pseudo-commands, `0x00rrcc13`, `0x00rrcc03` and `0x00000004`. -/
def Obligations.PseudoCommandWords : Prop :=
  (∀ col row : Byte,
    (encode (pixOn col row)).cmd.toNat = row.toNat * 0x10000 + col.toNat * 0x100 + 0x13 ∧
    (encode (pixOff col row)).cmd.toNat = row.toNat * 0x10000 + col.toNat * 0x100 + 0x03) ∧
  (encode blank).cmd = 0x00000004#32

/-! ## The step -/

/-- R70, R180: a step of an idle block that is offered a token which decodes is that command's meaning, at
the state with the token taken from the port. -/
def Obligations.StepRunsTheDecodedCommand : Prop :=
  ∀ (s : State) (t : Token) (ts : List Token) (i : Instr),
    s.Offers t ts → decode t = .ok i → step s = exec i (s.accepting ts)

/-- R180, R185: the decoder, the dispatch and the meanings together are the spec's acceptance
pseudocode, checks in its order and effects as it writes them, for every token and every state. -/
def Obligations.AcceptanceIsThePseudocode : Prop :=
  ∀ (s : State) (t : Token) (ts : List Token),
    s.Offers t ts → step s = .next (acceptBits t (s.accepting ts))

/-- R180 with R186, R189: no step stops the machine; whatever is offered, there is a next state. That
nothing in the spec stops the machine is the model's reading, log entry 8. -/
def Obligations.EveryStepAnswersANextState : Prop :=
  ∀ s : State, ∃ u, step s = .next u

/-- R70: in a step without reset, a token leaves the port exactly if `cmd_valid = 1` and
`cmd_ready = not busy`; otherwise the tokens wait, none lost and none refused. -/
def Obligations.TokenIsTakenExactlyAtTheHandshake : Prop :=
  ∀ s : State, s.inputs.reset = false →
    ∃ u, step s = .next u ∧
      u.tokens = if s.inputs.cmdValid = true ∧ s.pending = [] then s.tokens.tail else s.tokens

/-- R220: the engine step of a busy block, for both kinds of items and both values of their gates. -/
def Obligations.BusyStepEmitsTheHeadOrHolds : Prop :=
  ∀ (s : State) (rest : List WorkItem), s.inputs.reset = false →
    (∀ e, s.pending = .link e :: rest →
      step s = .next
        (if s.inputs.linkReady = true then
          { s with
            pending := rest, pins := s.pins.apply e, log := s.log ++ [.emitted (.link e)],
            upcoming := s.upcoming.tail }
        else { s with upcoming := s.upcoming.tail })) ∧
    (∀ b, s.pending = .tx b :: rest →
      step s = .next
        (if s.inputs.txReady = true then
          { s with
            pending := rest, log := s.log ++ [.emitted (.tx b)], upcoming := s.upcoming.tail }
        else { s with upcoming := s.upcoming.tail }))

/-- R60: outputs leave in the order of the work list, "never reordered, merged or skipped", and while
the block is busy no command is accepted and nothing but the output moves; an idle block emits
nothing. -/
def Obligations.OutputsLeaveInWorkListOrder : Prop :=
  ∀ s u : State, s.inputs.reset = false → step s = .next u →
    (s.pending ≠ [] →
      u.log ++ u.pending.map .emitted = s.log ++ s.pending.map .emitted ∧
      u.tokens = s.tokens ∧ u.buf = s.buf ∧ u.initDone = s.initDone ∧ u.fault = s.fault ∧
      u.cause = s.cause) ∧
    (s.pending = [] → u.log = s.log ∧ u.pins = s.pins)

/-- R212: a block that has no token to accept waits; only the input lines of the step are used up. -/
def Obligations.IdleBlockWaits : Prop :=
  ∀ s : State, s.inputs.reset = false → s.pending = [] →
    (s.inputs.cmdValid = false ∨ s.tokens = []) →
    step s = .next { s with upcoming := s.upcoming.tail }

/-- R210: reset at any step, in any state, sets every piece of the block's state to its reset value, and
nothing else leaves the faulted state. -/
def Obligations.ResetTakesEffectAtOnce : Prop :=
  (∀ s : State, s.inputs.reset = true →
    ∃ u, step s = .next u ∧
      u.buf = #v[0x00#8, 0x00#8, 0x00#8, 0x00#8, 0x00#8, 0x00#8, 0x00#8, 0x00#8] ∧
      u.pending = [] ∧ u.initDone = false ∧ u.fault = false ∧ u.cause = .none ∧
      u.pins = ⟨.z, .z, .z⟩) ∧
  ∀ s u : State, step s = .next u → s.fault = true → u.fault = false → s.inputs.reset = true

/-- R211: what was emitted before a reset stays in both traces, and the rest of the work list is gone.
The model's reading, log entry 5: the step of the reset itself emits nothing and takes no token. -/
def Obligations.ResetDiscardsTheRestOfTheCommand : Prop :=
  ∀ s : State, s.inputs.reset = true →
    ∃ u, step s = .next u ∧ u.pending = [] ∧ u.linkTrace = s.linkTrace ∧ u.txTrace = s.txTrace ∧
      u.tokens = s.tokens

/-- R36: the values after reset. -/
def Obligations.ResetValues : Prop :=
  (∀ r : Fin 8, State.reset.buf[r] = 0x00#8) ∧ State.reset.pending = [] ∧
  State.reset.busy = false ∧ State.reset.initDone = false ∧ State.reset.fault = false ∧
  State.reset.cause.code = 0#3 ∧ State.reset.pins.cs = .z ∧ State.reset.pins.clk = .z ∧
  State.reset.pins.din = .z ∧ State.reset.linkTrace = [] ∧ State.reset.txTrace = []

/-- R30: the fields of STATUS, bit by bit, the reserved bits reading 0, and its value after reset; the
CAUSE codes are those of the table of R181. -/
def Obligations.StatusPortFields : Prop :=
  (∀ s : State,
    s.status.getLsbD 0 = s.busy ∧ s.status.getLsbD 1 = s.initDone ∧ s.status.getLsbD 2 = s.fault ∧
    s.status.getLsbD 3 = false ∧ s.status.extractLsb' 4 3 = s.cause.code ∧
    s.status.getLsbD 7 = false ∧ (s.busy = true ↔ s.pending ≠ [])) ∧
  State.reset.status = 0x00#8 ∧
  Cause.code .none = 0#3 ∧ Cause.code .illegalOpcode = 1#3 ∧ Cause.code .reservedField = 2#3 ∧
  Cause.code .notInit = 3#3 ∧ Cause.code .reinit = 4#3 ∧ Cause.code .badOperand = 5#3

/-! ## Faults -/

/-- R187: a faulted block stays faulted with its first cause until reset, takes every token it is offered
(whatever the token is) without any other change, and stays ready for the next. A faulted block that
meets the invariant (as every reachable one does) is ready and emits nothing in any step. -/
def Obligations.FaultedBlockDiscardsEveryToken : Prop :=
  ∀ s : State, s.fault = true → s.inputs.reset = false →
    (∃ u, step s = .next u ∧ u.fault = true ∧ u.cause = s.cause ∧ u.buf = s.buf ∧
      u.initDone = s.initDone) ∧
    (∀ t ts, s.Offers t ts →
      step s = .next (s.accepting ts) ∧ (s.accepting ts).cmdReady = true) ∧
    (Inv s → s.cmdReady = true ∧
      ∃ u, step s = .next u ∧ u.cmdReady = true ∧ u.pending = [] ∧ u.log = s.log ∧ u.pins = s.pins)

/-- R186: whenever a step records a fault, `fault` and `cause` are all that the refused command
changes: nothing of its effect, nothing emitted. -/
def Obligations.RefusedCommandHasNoPartialEffect : Prop :=
  ∀ (s u : State) (t : Token) (ts : List Token),
    s.Offers t ts → s.fault = false → step s = .next u → u.fault = true →
    u.cause ≠ .none ∧ u = { s.accepting ts with fault := true, cause := u.cause }

/-- R183: the sequencing faults, and SENDFRAME's independence of INIT. -/
def Obligations.SequencingFaults : Prop :=
  ∀ s : State, s.fault = false →
    (s.initDone = false →
      exec .clear s = .next { s with fault := true, cause := .notInit } ∧
      (∀ col row on,
        exec (.setPixel col row on) s = .next { s with fault := true, cause := .notInit }) ∧
      ∀ sym, exec (.glyph sym) s = .next { s with fault := true, cause := .notInit }) ∧
    (s.initDone = true → exec .init s = .next { s with fault := true, cause := .reinit }) ∧
    ∀ o : OperandBlock, o.wf = true →
      ∃ u, exec (.sendFrame o) s = .next u ∧ u.fault = false ∧ u.initDone = s.initDone

/-- R188: the operand check of SENDFRAME is on GEAR, TURN and the reserved bits only. -/
def Obligations.BadOperandIsCheckedOnTheOperandBlock : Prop :=
  ∀ (s : State) (o : OperandBlock), s.fault = false →
    ((o.gear = 0b11#2 ∨ o.turn = 0b11#2 ∨ o.reserved ≠ 0b000#3) →
      exec (.sendFrame o) s = .next { s with fault := true, cause := .badOperand }) ∧
    (¬(o.gear = 0b11#2 ∨ o.turn = 0b11#2 ∨ o.reserved ≠ 0b000#3) →
      ∃ u, exec (.sendFrame o) s = .next u ∧ u.fault = false ∧ u.cause = s.cause)

/-! ## Commands: result, completion and frame

Each equation gives the whole next state, so it is the frame as well: a field that is not named is
unchanged. -/

/-- R101: INIT sets `init_done` and lists the drive event, the five configuration writes and the flush. -/
def Obligations.InitCompletes : Prop :=
  ∀ s : State, s.fault = false → s.initDone = false →
    exec .init s = .next
      { s with
        initDone := true
        pending :=
          (LinkEvent.drive ::
            (ChipWrite.events ⟨0x09#8, 0x00#8⟩ ++ ChipWrite.events ⟨0x0A#8, 0x0F#8⟩ ++
              ChipWrite.events ⟨0x0B#8, 0x07#8⟩ ++ ChipWrite.events ⟨0x0C#8, 0x01#8⟩ ++
              ChipWrite.events ⟨0x0F#8, 0x00#8⟩ ++ flush s.buf)).map .link }

/-- R110: CLEAR sets every pixel off and emits nothing. -/
def Obligations.ClearCompletes : Prop :=
  ∀ s : State, s.fault = false → s.initDone = true →
    exec .clear s = .next
      { s with
        buf := #v[0x00#8, 0x00#8, 0x00#8, 0x00#8, 0x00#8, 0x00#8, 0x00#8, 0x00#8]
        pending := [] }

/-- R113: SETPIXEL, in range and out of range. -/
def Obligations.SetPixelCompletes : Prop :=
  ∀ (s : State) (col row : Byte) (on : Bool), s.fault = false → s.initDone = true →
    (∀ h : col.toNat < 8 ∧ row.toNat < 8,
      exec (.setPixel col row on) s = .next
        { s with
          buf := s.buf.set row.toNat
            ((s.buf[row.toNat] &&& ~~~(1#8 <<< col.toNat)) |||
              ((BitVec.ofBool on).zeroExtend 8 <<< col.toNat)) h.2
          pending := [] }) ∧
    (¬(col.toNat < 8 ∧ row.toNat < 8) →
      exec (.setPixel col row on) s = .next { s with pending := [] })

/-- R113, R21: "Only bit `col` of row `row` can change", and it becomes the value asked for. -/
def Obligations.SetPixelChangesOnlyThatPixel : Prop :=
  ∀ (s : State) (col row : Byte) (on : Bool), s.fault = false → s.initDone = true →
    ∃ u, exec (.setPixel col row on) s = .next u ∧
      ∀ c r : Fin 8,
        pixel u.buf c r =
          if (c : Nat) = col.toNat ∧ (r : Nat) = row.toNat then on else pixel s.buf c r

/-- R117: GLYPH leaves the glyph of a known symbol, or a blank buffer, and lists the flush of what it
left; nothing of the old buffer survives. -/
def Obligations.GlyphCompletes : Prop :=
  ∀ (s : State) (sym : Byte), s.fault = false → s.initDone = true →
    ∃ g : Rows,
      exec (.glyph sym) s = .next { s with buf := g, pending := (flush g).map .link } ∧
      (sym = 0x44#8 → g = Config.glyphD) ∧ (sym = 0x52#8 → g = Config.glyphR) ∧
      (sym = 0x50#8 → g = Config.glyphP) ∧
      (sym ≠ 0x44#8 → sym ≠ 0x52#8 → sym ≠ 0x50#8 → ∀ r : Fin 8, g[r] = 0x00#8)

/-- R118: "The effect is the same as CLEAR followed by one SETPIXEL per set bit of the glyph". -/
def Obligations.GlyphIsClearThenSetPixels : Prop :=
  ∀ (s : State) (sym : Byte) (g : Rows), s.fault = false → s.initDone = true →
    glyphRead sym = some g →
    ∃ u v, exec (.glyph sym) s = .next u ∧ execList (.clear :: litPixels g) s = .next v ∧
      u.buf = g ∧ v.buf = g

/-- R151, R154, R155, R156: SENDFRAME lists the sixteen bytes of the frame and changes nothing else. -/
def Obligations.SendFrameCompletes : Prop :=
  ∀ (s : State) (o : OperandBlock), s.fault = false →
    o.gear ≠ 0b11#2 → o.turn ≠ 0b11#2 → o.reserved = 0b000#3 →
    exec (.sendFrame o) s = .next
      { s with
        pending :=
          [.tx 0xAA#8,
           .tx (o.acc.extractLsb' 0 8), .tx (o.acc.extractLsb' 8 8),
           .tx (o.acc.extractLsb' 16 8), .tx (o.acc.extractLsb' 24 8),
           .tx (o.dec.extractLsb' 0 8), .tx (o.dec.extractLsb' 8 8),
           .tx (o.dec.extractLsb' 16 8), .tx (o.dec.extractLsb' 24 8),
           .tx (o.ang.extractLsb' 0 8), .tx (o.ang.extractLsb' 8 8),
           .tx (o.ang.extractLsb' 16 8), .tx (o.ang.extractLsb' 24 8),
           .tx (if o.hb then 0x01#8 else 0x00#8),
           .tx (if o.gear = 0b00#2 then 0x50#8 else if o.gear = 0b01#2 then 0x44#8 else 0x52#8),
           .tx (if o.turn = 0b00#2 then 0x4E#8 else if o.turn = 0b01#2 then 0x4C#8 else 0x52#8)] }

/-- R160: the frame is a function of the operand block alone, whatever the states that accept it. -/
def Obligations.FrameDependsOnTheOperandsOnly : Prop :=
  ∀ (o : OperandBlock) (s s' : State), o.wf = true → s.fault = false → s'.fault = false →
    ∃ u u', exec (.sendFrame o) s = .next u ∧ exec (.sendFrame o) s' = .next u' ∧
      u.pending = u'.pending

/-- The source's worked example (95_test_vectors.md V1), byte for byte. -/
def Obligations.WorkedExampleFrame : Prop :=
  ∃ u, exec (.sendFrame ⟨0x3FC00000#32, 0#32, 0xFFFFFFD6#32, true, 0b01#2, 0b00#2, 0#3⟩)
      State.reset = .next u ∧
    u.pending =
      [0xAA#8, 0x00#8, 0x00#8, 0xC0#8, 0x3F#8, 0x00#8, 0x00#8, 0x00#8, 0x00#8, 0xD6#8, 0xFF#8, 0xFF#8,
       0xFF#8, 0x01#8, 0x44#8, 0x4E#8].map .tx

/-- R138: how many link events each command lists (and 16 bytes for SENDFRAME, R226). -/
def Obligations.WorkListLengths : Prop :=
  ∀ s : State, s.fault = false →
    (s.initDone = false →
      ∃ u, exec .init s = .next u ∧ u.pending.length = 651) ∧
    (s.initDone = true →
      (∀ sym, ∃ u, exec (.glyph sym) s = .next u ∧ u.pending.length = 400) ∧
      (∃ u, exec .clear s = .next u ∧ u.pending.length = 0) ∧
      ∀ col row on, ∃ u, exec (.setPixel col row on) s = .next u ∧ u.pending.length = 0) ∧
    (∀ o : OperandBlock, o.wf = true →
      ∃ u, exec (.sendFrame o) s = .next u ∧ u.pending.length = 16) ∧
    (∀ w : ChipWrite, w.events.length = 50) ∧ ∀ buf : Rows, (flush buf).length = 400

/-- R59: CLEAR, and SETPIXEL with the same operands, are idempotent on the state. -/
def Obligations.ClearAndSetPixelAreIdempotent : Prop :=
  (∀ s u : State, exec .clear s = .next u → exec .clear u = .next u) ∧
  ∀ (s u : State) (col row : Byte) (on : Bool),
    exec (.setPixel col row on) s = .next u → exec (.setPixel col row on) u = .next u

/-! ## Whole-machine rules -/

/-- R20: the buffer "is written only by the DDP commands CLEAR, SETPIXEL and GLYPH", and by reset. -/
def Obligations.BufferIsWrittenOnlyByThreeCommands : Prop :=
  ∀ s u : State, step s = .next u → u.buf ≠ s.buf →
    s.inputs.reset = true ∨
    ∃ t ts i, s.Offers t ts ∧ decode t = .ok i ∧ s.fault = false ∧ s.initDone = true ∧
      (i = .clear ∨ (∃ col row on, i = .setPixel col row on) ∨ ∃ sym, i = .glyph sym)

/-- R28: `init_done` "is set by INIT and cleared only by reset". -/
def Obligations.InitDoneIsSetByInitAndClearedByReset : Prop :=
  ∀ s u : State, step s = .next u → u.initDone ≠ s.initDone →
    (s.inputs.reset = true ∧ u.initDone = false) ∨
    (u.initDone = true ∧ ∃ t ts, s.Offers t ts ∧ decode t = .ok .init ∧ s.fault = false)

/-- R29: `fault` is set only by a refused token and cleared only by reset. -/
def Obligations.FaultIsSetByARefusalAndClearedByReset : Prop :=
  ∀ s u : State, step s = .next u → u.fault ≠ s.fault →
    (s.inputs.reset = true ∧ u.fault = false) ∨
    (u.fault = true ∧ u.cause ≠ .none ∧ ∃ t ts, s.Offers t ts)

/-- R51, R139, R198: the register writes a command sends go to the thirteen used addresses only, and the
control registers get their one value. -/
def Obligations.ChipAddressesAreTheThirteenUsedOnes : Prop :=
  ∀ (i : Instr) (s u : State), s.pending = [] → exec i s = .next u →
    ∀ w ∈ writes (.drive :: u.pending.filterMap fun x => (Observed.emitted x).linkEvent),
      w.addr ∈ [0x01#8, 0x02#8, 0x03#8, 0x04#8, 0x05#8, 0x06#8, 0x07#8, 0x08#8] ∨
      w ∈ [⟨0x09#8, 0x00#8⟩, ⟨0x0A#8, 0x0F#8⟩, ⟨0x0B#8, 0x07#8⟩, ⟨0x0C#8, 0x01#8⟩, ⟨0x0F#8, 0x00#8⟩]

/-! ## The chip link -/

/-- R132, R133, R53: one register write, event by event: CS low, the address bits and then the data bits
from the most significant one, each as DIN, CLK up, CLK down, and CS high. -/
def Obligations.RegisterWriteEvents : Prop :=
  ∀ a d : Byte,
    ChipWrite.events ⟨a, d⟩ =
      .setCS false ::
        ([a.getLsbD 7, a.getLsbD 6, a.getLsbD 5, a.getLsbD 4,
          a.getLsbD 3, a.getLsbD 2, a.getLsbD 1, a.getLsbD 0,
          d.getLsbD 7, d.getLsbD 6, d.getLsbD 5, d.getLsbD 4,
          d.getLsbD 3, d.getLsbD 2, d.getLsbD 1, d.getLsbD 0].flatMap fun b =>
            [.setDIN b, .setCLK true, .setCLK false]) ++ [.setCS true]

/-- R137: reading the writes back off the link gives exactly the writes that were sent; any bits shifted
between CS low and CS high are one write if they are exactly 16, the address in the first eight from the
most significant bit on and the data in the others, and nothing if they are not 16. -/
def Obligations.WritesReadBackWhatWasSent : Prop :=
  (∀ ws : List ChipWrite, writes (.drive :: linkEvents ws) = ws) ∧
  ∀ bits : List Bool,
    (bits.length ≠ 16 →
      writes ([.drive, .setCS false] ++ bits.flatMap shiftBit ++ [.setCS true]) = []) ∧
    (bits.length = 16 →
      ∃ a d : Byte,
        writes ([.drive, .setCS false] ++ bits.flatMap shiftBit ++ [.setCS true]) = [⟨a, d⟩] ∧
        ∀ k : Fin 8, bits[(k : Nat)]? = some (a.getLsbD (7 - k)) ∧
          bits[(k : Nat) + 8]? = some (d.getLsbD (7 - k)))

/-- R211: a write cut off by a reset adds nothing, and what is sent after the next INIT's drive event is
read back whole. That the drive event itself outputs nothing, even where all 16 bits of the cut write
were shifted, is the model's reading, log entry 7. -/
def Obligations.CutWriteAddsNothing : Prop :=
  ∀ (ws ws' : List ChipWrite) (w : ChipWrite) (n : Nat), n < 50 →
    writes (.drive :: (linkEvents ws ++ w.events.take n)) = ws ∧
    writes (.drive :: (linkEvents ws ++ w.events.take n ++ .drive :: linkEvents ws')) = ws ++ ws'

/-- R131: a flush is eight register writes, registers 1 to 8 in ascending order with the rows as data, and
each is a block of 50 events that begins with CS low and ends with CS high. -/
def Obligations.FlushWritesRegistersInAscendingOrder : Prop :=
  ∀ buf : Rows,
    (writes (.drive :: flush buf)).map ChipWrite.addr =
      [0x01#8, 0x02#8, 0x03#8, 0x04#8, 0x05#8, 0x06#8, 0x07#8, 0x08#8] ∧
    (writes (.drive :: flush buf)).map ChipWrite.data = buf.toList ∧
    (flush buf).length = 400 ∧
    ∀ k : Fin 8,
      (flush buf)[50 * (k : Nat)]? = some (.setCS false) ∧
      (flush buf)[50 * (k : Nat) + 49]? = some (.setCS true)

/-- R54, R134: what each link event does to the pins, whatever they were; R32: once driven, the pins rest
at CS = 1, CLK = 0, DIN = the last data bit shifted (0 right after the drive event). -/
def Obligations.PinsRestAtTheLastDataBit : Prop :=
  (∀ p : Pins,
    p.apply .drive = ⟨.high, .low, .low⟩ ∧
    p.apply (.setCS false) = ⟨.low, p.clk, p.din⟩ ∧ p.apply (.setCS true) = ⟨.high, p.clk, p.din⟩ ∧
    p.apply (.setCLK false) = ⟨p.cs, .low, p.din⟩ ∧ p.apply (.setCLK true) = ⟨p.cs, .high, p.din⟩ ∧
    p.apply (.setDIN false) = ⟨p.cs, p.clk, .low⟩ ∧ p.apply (.setDIN true) = ⟨p.cs, p.clk, .high⟩) ∧
  ∀ (ws : List ChipWrite) (a d : Byte),
    (LinkEvent.drive :: linkEvents (ws ++ [⟨a, d⟩])).foldl Pins.apply .undriven =
      ⟨.high, .low, if d.getLsbD 0 then .high else .low⟩

/-- R135: the pin rules hold at every event of every list of register writes after the drive event, and
each write has exactly 16 rising edges of CLK. -/
def Obligations.PinRulesHoldOnTheLink : Prop :=
  ∀ ws : List ChipWrite,
    itemsAllowed .undriven ((LinkEvent.drive :: linkEvents ws).map .link) = true ∧
    ∀ w ∈ ws, w.events.count (.setCLK true) = 16

/-! ## Runs -/

/-- R220: if in each step to come nobody resets and the gate of the item then at the head is open, a
block emits its whole work list in order in as many steps as the list has items, and is then idle,
whatever the host and the other gate do. -/
def Obligations.WorkListDrains : Prop :=
  ∀ s : State,
    (∀ (k : Nat) (h : k < s.pending.length),
      (s.inputsAt k).reset = false ∧ (s.inputsAt k).ready s.pending[k] = true) →
    Host.Core.run core s.pending.length s = .next
      { s with
        pending := []
        pins := s.pending.foldl pinsAfterItem s.pins
        log := s.log ++ s.pending.map .emitted
        upcoming := s.upcoming.drop s.pending.length }

/-- R221: a gate that stays closed keeps the block busy for ever: whatever the number of steps and
whatever the host and the other gate do in them, nothing changes but the input lines used up, and the
host's next token is never accepted. -/
def Obligations.ClosedGateStallsForEver : Prop :=
  ∀ (s : State) (w : WorkItem) (rest : List WorkItem) (n : Nat),
    s.pending = w :: rest →
    (∀ k, k < n → (s.inputsAt k).reset = false ∧ (s.inputsAt k).ready w = false) →
    Host.Core.run core n s = .next { s with upcoming := s.upcoming.drop n }

/-- R152: consecutive frames abut: any number of legal SENDFRAME tokens, each accepted and drained, add
exactly their 16-byte frames to `tx_trace`, each with 0xAA at its offset 0, and nothing to
`link_trace`. -/
def Obligations.ConsecutiveFramesAbut : Prop :=
  ∀ (os : List OperandBlock) (ts : List Token) (s : State),
    s.smoothRun → s.pending = [] → s.fault = false →
    (∀ o ∈ os, o.wf = true) → s.tokens = os.map (fun o => encode (.sendFrame o)) ++ ts →
    (∃ u, Host.Core.run core (17 * os.length) s = .next u ∧ u.tokens = ts ∧ u.pending = [] ∧
      u.txTrace = s.txTrace ++ os.flatMap frameOf ∧ u.linkTrace = s.linkTrace ∧
      u.buf = s.buf ∧ u.initDone = s.initDone ∧ u.fault = false) ∧
    ∀ o ∈ os, (frameOf o).length = 16 ∧ (frameOf o)[0]? = some 0xAA#8

/-! ## Invariants -/

/-- The invariant holds right after reset. -/
def Obligations.InvariantHoldsAtReset : Prop := Inv State.reset

/-- R29, R31, R32, R101, R134, R135: every step from a state with the invariant leaves a state with it,
whatever the environment does, reset in the middle of a write included. -/
def Obligations.EveryStepKeepsTheInvariant : Prop :=
  ∀ s u : State, Inv s → step s = .next u → Inv u

/-- R31, R32: what the invariant says of an idle block: before INIT the pins are undriven, after it they
rest at CS = 1, CLK = 0 with DIN driven. -/
def Obligations.IdlePinsAreUndrivenOrAtRest : Prop :=
  ∀ s : State, Inv s → s.pending = [] →
    (s.initDone = false → s.pins = ⟨.z, .z, .z⟩) ∧
    (s.initDone = true → s.pins.cs = .high ∧ s.pins.clk = .low ∧ s.pins.din ≠ .z)

/-! ## The chip view (an observation aid from general knowledge, not part of the block) -/

/-- R141: once INIT has drained, the chip view holds the configuration values and the rows, and every
other register is unknown; from any state with the invariant that accepts INIT, whatever was sent
before. The view is general knowledge and presumes a chip that is present and correctly wired (log
entry 9). -/
def Obligations.ChipViewAfterInit : Prop :=
  ∀ (s u : State), Inv s → s.fault = false → s.initDone = false → exec .init s = .next u →
    (∀ k, k < u.pending.length → (u.inputsAt k).reset = false ∧ (u.inputsAt k).linkReady = true) →
    ∃ v, Host.Core.run core u.pending.length u = .next v ∧
      (∀ r : Fin 8, v.chipRegister (BitVec.ofNat 8 (r + 1)) = some s.buf[r]) ∧
      v.chipRegister 0x09#8 = some 0x00#8 ∧ v.chipRegister 0x0A#8 = some 0x0F#8 ∧
      v.chipRegister 0x0B#8 = some 0x07#8 ∧ v.chipRegister 0x0C#8 = some 0x01#8 ∧
      v.chipRegister 0x0F#8 = some 0x00#8 ∧ v.chipRegister 0x00#8 = none ∧
      v.chipRegister 0x0D#8 = none ∧ v.chipRegister 0x0E#8 = none ∧
      ∀ k : Byte, 0x10 ≤ k.toNat → v.chipRegister k = none

/-- R211, R213: a reset, in the middle of a register write or not, makes every chip register unknown, and
before INIT none is known. The view is general knowledge (log entry 9). -/
def Obligations.ChipUnknownAfterReset : Prop :=
  (∀ s u : State, s.inputs.reset = true → step s = .next u → ∀ k : Byte, u.chipRegister k = none) ∧
  ∀ s : State, Inv s → s.initDone = false → ∀ k : Byte, s.chipRegister k = none

/-- R141: while INIT drains, whatever the gates do, each chip register is unknown until the events of INIT's
write to it have all left (the drive event, then 50 events a write) and holds the data written from
then on; a register INIT does not write stays unknown. That a register is known before INIT ends is
the model's reading (log entry 9): the plain words of R213 call the registers unknown until then. The
view is general knowledge and presumes a chip that is present and correctly wired (log entry 9). -/
def Obligations.ChipRegistersKnownAsInitWritesThem : Prop :=
  ∀ (s u v : State) (n : Nat), Inv s → s.fault = false → s.initDone = false →
    exec .init s = .next u → (∀ k, k < n → (u.inputsAt k).reset = false) →
    Host.Core.run core n u = .next v → v.log.length < u.log.length + u.pending.length →
    (∀ (j : Nat) (w : ChipWrite),
      [(⟨0x09#8, 0x00#8⟩ : ChipWrite), ⟨0x0A#8, 0x0F#8⟩, ⟨0x0B#8, 0x07#8⟩, ⟨0x0C#8, 0x01#8⟩,
        ⟨0x0F#8, 0x00#8⟩, ⟨0x01#8, s.buf[0]⟩, ⟨0x02#8, s.buf[1]⟩, ⟨0x03#8, s.buf[2]⟩,
        ⟨0x04#8, s.buf[3]⟩, ⟨0x05#8, s.buf[4]⟩, ⟨0x06#8, s.buf[5]⟩, ⟨0x07#8, s.buf[6]⟩,
        ⟨0x08#8, s.buf[7]⟩][j]? = some w →
      v.chipRegister w.addr =
        if u.log.length + 1 + 50 * (j + 1) ≤ v.log.length then some w.data else none) ∧
    ∀ k : Byte, k.toNat = 0 ∨ k.toNat = 0x0D ∨ k.toNat = 0x0E ∨ 0x10 ≤ k.toNat →
      v.chipRegister k = none
end

