-- ==== Sys2Proof/Laws/Decode.lean ====
section
/-! SUPPORT. What the decoder answers, once for each of its outcomes, and the fields of the operand block.
Later proofs cite these and do not unfold `decode`. -/

namespace Sys2Proof

theorem opcodeOf_init {cmd : Word} (h : cmd.extractLsb' 0 4 = 0x1#4) : opcodeOf cmd = some .init := by
  simp [opcodeOf, h]

theorem opcodeOf_clear {cmd : Word} (h : cmd.extractLsb' 0 4 = 0x2#4) :
    opcodeOf cmd = some .clear := by
  simp [opcodeOf, h]

theorem opcodeOf_setPixel {cmd : Word} (h : cmd.extractLsb' 0 4 = 0x3#4) :
    opcodeOf cmd = some .setPixel := by
  simp [opcodeOf, h]

theorem opcodeOf_glyph {cmd : Word} (h : cmd.extractLsb' 0 4 = 0x4#4) :
    opcodeOf cmd = some .glyph := by
  simp [opcodeOf, h]

theorem opcodeOf_sendFrame {cmd : Word} (h : cmd.extractLsb' 0 4 = 0x5#4) :
    opcodeOf cmd = some .sendFrame := by
  simp [opcodeOf, h]

theorem decode_ok {t : Token} {op : Opcode} (hop : opcodeOf t.cmd = some op)
    (hr : t.cmd &&& reservedMask op = 0#32) : decode t = .ok (assembleOperands t op) := by
  simp [decode, hop, hr]

theorem decode_reservedField {t : Token} {op : Opcode} (hop : opcodeOf t.cmd = some op)
    (hr : t.cmd &&& reservedMask op ≠ 0#32) : decode t = .error .reservedField := by
  simp [decode, hop, hr]

theorem decode_illegalOpcode {t : Token} (hop : opcodeOf t.cmd = none) :
    decode t = .error .illegalOpcode := by
  simp [decode, hop]

/-- Everything the decoder can answer. -/
theorem decode_cases (t : Token) :
    (opcodeOf t.cmd = none ∧ decode t = .error .illegalOpcode) ∨
    (∃ op, opcodeOf t.cmd = some op ∧ t.cmd &&& reservedMask op ≠ 0#32 ∧
      decode t = .error .reservedField) ∨
    (∃ op, opcodeOf t.cmd = some op ∧ t.cmd &&& reservedMask op = 0#32 ∧
      decode t = .ok (assembleOperands t op)) := by
  cases hop : opcodeOf t.cmd with
  | none => exact .inl ⟨rfl, decode_illegalOpcode hop⟩
  | some op =>
    by_cases hr : t.cmd &&& reservedMask op = 0#32
    · exact .inr (.inr ⟨op, rfl, hr, decode_ok hop hr⟩)
    · exact .inr (.inl ⟨op, rfl, hr, decode_reservedField hop hr⟩)

theorem OperandBlock.ofBits_toBits (o : OperandBlock) : OperandBlock.ofBits o.toBits = o := by
  obtain ⟨acc, dec, ang, hb, gear, turn, reserved⟩ := o
  simp only [OperandBlock.ofBits, OperandBlock.toBits, OperandBlock.mk.injEq]
  refine ⟨?_, ?_, ?_, ?_, ?_, ?_, ?_⟩
  case refine_4 =>
    simp only [BitVec.getLsbD_append]
    simp
  all_goals
    apply BitVec.eq_of_getLsbD_eq
    intro i hi
    simp only [BitVec.getLsbD_extractLsb', BitVec.getLsbD_append]
    interval_cases i <;> simp

end Sys2Proof
end

