-- ==== Sys2Proof/Laws/Link.lean ====
section
/-! SUPPORT. The lengths of register writes (R132), and the link events and pins that a longer observation
leaves (R54, R211). -/

namespace Sys2Proof.Machine

@[simp] theorem ChipWrite.events_length (w : ChipWrite) : w.events.length = 50 := by
  simp [ChipWrite.events, shift16, shiftOrder, shiftBit]

@[simp] theorem linkEvents_nil : linkEvents [] = [] := rfl

theorem linkEvents_cons (w : ChipWrite) (ws : List ChipWrite) :
    linkEvents (w :: ws) = w.events ++ linkEvents ws := rfl

theorem linkEvents_append (ws ws' : List ChipWrite) :
    linkEvents (ws ++ ws') = linkEvents ws ++ linkEvents ws' := by
  simp [linkEvents]

@[simp] theorem linkEvents_length (ws : List ChipWrite) :
    (linkEvents ws).length = 50 * ws.length := by
  induction ws with
  | nil => rfl
  | cons w ws ih => simp [linkEvents_cons, ih]; omega

/-- No event leaves all three pins undriven (R54). -/
theorem Pins.apply_ne_undriven (p : Pins) (e : LinkEvent) : p.apply e ≠ .undriven := by
  cases e with
  | drive => simp [Pins.apply, Pins.undriven]
  | _ l => cases l <;> simp [Pins.apply, Pins.undriven, Pin.level]

@[simp] theorem eventsSinceReset_nil : eventsSinceReset [] = [] := rfl

@[simp] theorem eventsSinceReset_reset (log : List Observed) :
    eventsSinceReset (log ++ [.resetMark]) = [] := by
  simp [eventsSinceReset, eventsAfterEntry]

@[simp] theorem eventsSinceReset_tx (log : List Observed) (b : Byte) :
    eventsSinceReset (log ++ [.emitted (.tx b)]) = eventsSinceReset log := by
  simp [eventsSinceReset, eventsAfterEntry]

@[simp] theorem eventsSinceReset_link (log : List Observed) (e : LinkEvent) :
    eventsSinceReset (log ++ [.emitted (.link e)]) = eventsSinceReset log ++ [e] := by
  simp [eventsSinceReset, eventsAfterEntry]

/-- The pins an observation leaves are those its events since the last reset leave. -/
theorem pinsOfLog_eq_foldl (log : List Observed) :
    pinsOfLog log = (eventsSinceReset log).foldl Pins.apply .undriven := by
  induction log using List.reverseRecOn with
  | nil => rfl
  | append_singleton log o ih =>
    have h : pinsOfLog (log ++ [o]) = pinsAfterEntry (pinsOfLog log) o := by simp [pinsOfLog]
    rw [h, ih]
    match o with
    | .resetMark => simp [pinsAfterEntry]
    | .emitted (.tx b) => simp [pinsAfterEntry, pinsAfterItem]
    | .emitted (.link e) => simp [pinsAfterEntry, pinsAfterItem]

/-- Undriven pins say that nothing was sent since the last reset. -/
theorem eventsSinceReset_of_undriven {log : List Observed} (h : pinsOfLog log = .undriven) :
    eventsSinceReset log = [] := by
  rw [pinsOfLog_eq_foldl] at h
  cases he : (eventsSinceReset log).reverse with
  | nil => simpa using he
  | cons e es =>
    rw [List.reverse_eq_cons_iff] at he
    rw [he, List.foldl_append] at h
    exact absurd h (Pins.apply_ne_undriven _ e)

end Sys2Proof.Machine
end

