-- ==== Sys2Proof/Laws/State.lean ====
section
/-! SUPPORT. One lemma per field per update of the state, true by unfolding the update once. -/

namespace Sys2Proof.Machine

@[simp] theorem State.raise_buf (s : State) (c : Cause) : (s.raise c).buf = s.buf := rfl
@[simp] theorem State.raise_pending (s : State) (c : Cause) : (s.raise c).pending = s.pending := rfl
@[simp] theorem State.raise_initDone (s : State) (c : Cause) : (s.raise c).initDone = s.initDone := rfl
@[simp] theorem State.raise_fault (s : State) (c : Cause) : (s.raise c).fault = true := rfl
@[simp] theorem State.raise_cause (s : State) (c : Cause) : (s.raise c).cause = c := rfl
@[simp] theorem State.raise_pins (s : State) (c : Cause) : (s.raise c).pins = s.pins := rfl
@[simp] theorem State.raise_log (s : State) (c : Cause) : (s.raise c).log = s.log := rfl
@[simp] theorem State.raise_tokens (s : State) (c : Cause) : (s.raise c).tokens = s.tokens := rfl
@[simp] theorem State.raise_upcoming (s : State) (c : Cause) : (s.raise c).upcoming = s.upcoming := rfl
@[simp] theorem State.raise_settled (s : State) (c : Cause) : (s.raise c).settled = s.settled := rfl

@[simp] theorem State.takeReset_buf (s : State) : (s.takeReset).buf = State.reset.buf := rfl
@[simp] theorem State.takeReset_pending (s : State) : (s.takeReset).pending = [] := rfl
@[simp] theorem State.takeReset_initDone (s : State) : (s.takeReset).initDone = false := rfl
@[simp] theorem State.takeReset_fault (s : State) : (s.takeReset).fault = false := rfl
@[simp] theorem State.takeReset_cause (s : State) : (s.takeReset).cause = .none := rfl
@[simp] theorem State.takeReset_pins (s : State) : (s.takeReset).pins = .undriven := rfl
@[simp] theorem State.takeReset_log (s : State) : (s.takeReset).log = s.log ++ [.resetMark] := rfl
@[simp] theorem State.takeReset_tokens (s : State) : (s.takeReset).tokens = s.tokens := rfl
@[simp] theorem State.takeReset_upcoming (s : State) : (s.takeReset).upcoming = s.upcoming := rfl
@[simp] theorem State.takeReset_settled (s : State) : (s.takeReset).settled = s.settled := rfl

@[simp] theorem State.advanceInputs_buf (s : State) : (s.advanceInputs).buf = s.buf := rfl
@[simp] theorem State.advanceInputs_pending (s : State) : (s.advanceInputs).pending = s.pending := rfl
@[simp] theorem State.advanceInputs_initDone (s : State) : (s.advanceInputs).initDone = s.initDone := rfl
@[simp] theorem State.advanceInputs_fault (s : State) : (s.advanceInputs).fault = s.fault := rfl
@[simp] theorem State.advanceInputs_cause (s : State) : (s.advanceInputs).cause = s.cause := rfl
@[simp] theorem State.advanceInputs_pins (s : State) : (s.advanceInputs).pins = s.pins := rfl
@[simp] theorem State.advanceInputs_log (s : State) : (s.advanceInputs).log = s.log := rfl
@[simp] theorem State.advanceInputs_tokens (s : State) : (s.advanceInputs).tokens = s.tokens := rfl
@[simp] theorem State.advanceInputs_upcoming (s : State) : (s.advanceInputs).upcoming = s.upcoming.tail := rfl
@[simp] theorem State.advanceInputs_settled (s : State) : (s.advanceInputs).settled = s.settled := rfl

@[simp] theorem State.takeToken_buf (s : State) : (s.takeToken).buf = s.buf := rfl
@[simp] theorem State.takeToken_pending (s : State) : (s.takeToken).pending = s.pending := rfl
@[simp] theorem State.takeToken_initDone (s : State) : (s.takeToken).initDone = s.initDone := rfl
@[simp] theorem State.takeToken_fault (s : State) : (s.takeToken).fault = s.fault := rfl
@[simp] theorem State.takeToken_cause (s : State) : (s.takeToken).cause = s.cause := rfl
@[simp] theorem State.takeToken_pins (s : State) : (s.takeToken).pins = s.pins := rfl
@[simp] theorem State.takeToken_log (s : State) : (s.takeToken).log = s.log := rfl
@[simp] theorem State.takeToken_tokens (s : State) : (s.takeToken).tokens = s.tokens.tail := rfl
@[simp] theorem State.takeToken_upcoming (s : State) : (s.takeToken).upcoming = s.upcoming := rfl
@[simp] theorem State.takeToken_settled (s : State) : (s.takeToken).settled = s.settled := rfl

@[simp] theorem State.emit_buf (s : State) (w : WorkItem) : (s.emit w).buf = s.buf := rfl
@[simp] theorem State.emit_pending (s : State) (w : WorkItem) : (s.emit w).pending = s.pending := rfl
@[simp] theorem State.emit_initDone (s : State) (w : WorkItem) : (s.emit w).initDone = s.initDone := rfl
@[simp] theorem State.emit_fault (s : State) (w : WorkItem) : (s.emit w).fault = s.fault := rfl
@[simp] theorem State.emit_cause (s : State) (w : WorkItem) : (s.emit w).cause = s.cause := rfl
@[simp] theorem State.emit_pins (s : State) (w : WorkItem) : (s.emit w).pins = pinsAfterItem s.pins w := rfl
@[simp] theorem State.emit_log (s : State) (w : WorkItem) : (s.emit w).log = s.log ++ [.emitted w] := rfl
@[simp] theorem State.emit_tokens (s : State) (w : WorkItem) : (s.emit w).tokens = s.tokens := rfl
@[simp] theorem State.emit_upcoming (s : State) (w : WorkItem) : (s.emit w).upcoming = s.upcoming := rfl
@[simp] theorem State.emit_settled (s : State) (w : WorkItem) : (s.emit w).settled = s.settled := rfl

@[simp] theorem State.inputsAt_zero (s : State) : s.inputsAt 0 = s.inputs := by
  cases h : s.upcoming <;> simp [State.inputsAt, State.inputs, h]

/-- What the input lines of later steps are after this step's are used up. -/
@[simp] theorem State.inputsAt_advanceInputs (s : State) (k : Nat) :
    s.advanceInputs.inputsAt k = s.inputsAt (k + 1) := by
  simp [State.inputsAt]

theorem State.busy_eq_false_iff (s : State) : s.busy = false ↔ s.pending = [] := by
  simp [State.busy]

theorem State.busy_eq_true_iff (s : State) : s.busy = true ↔ s.pending ≠ [] := by
  simp [State.busy]

end Sys2Proof.Machine
end

