-- ==== Sys2Proof/Laws/Ops.lean ====
section
/-! SUPPORT. What each shared operation can do, said once: the acceptance of a command, the engine step, the meanings,
accepting a token, the step. -/

namespace Sys2Proof.Machine

theorem State.conclude_faulted {s : State} (h : s.fault = true) (check : Option Cause) (done : State) :
    s.conclude check done = .next s := by
  simp [State.conclude, h]

theorem State.conclude_raises {s : State} (h : s.fault = false) (c : Cause) (done : State) :
    s.conclude (some c) done = .next (s.raise c) := by
  simp [State.conclude, h]

theorem State.conclude_done {s : State} (h : s.fault = false) (done : State) :
    s.conclude none done = .next done := by
  simp [State.conclude, h]

/-- The acceptance of a command always answers a next state: the same state, a recorded fault, or `done`. -/
theorem State.conclude_cases (s : State) (check : Option Cause) (done : State) :
    (s.fault = true ∧ s.conclude check done = .next s) ∨
    (s.fault = false ∧ ∃ c, check = some c ∧ s.conclude check done = .next (s.raise c)) ∨
    (s.fault = false ∧ check = none ∧ s.conclude check done = .next done) := by
  cases h : s.fault
  · cases check with
    | none => exact .inr (.inr ⟨rfl, rfl, State.conclude_done h done⟩)
    | some c => exact .inr (.inl ⟨rfl, c, rfl, State.conclude_raises h c done⟩)
  · exact .inl ⟨rfl, State.conclude_faulted h check done⟩

theorem State.engineStep_idle {s : State} (h : s.pending = []) (i : Inputs) : s.engineStep i = s := by
  simp [State.engineStep, h]

theorem State.engineStep_emits {s : State} {i : Inputs} {w : WorkItem} {rest : List WorkItem}
    (h : s.pending = w :: rest) (hr : i.ready w = true) :
    s.engineStep i = State.emit { s with pending := rest } w := by
  simp [State.engineStep, h, hr]

theorem State.engineStep_holds {s : State} {i : Inputs} {w : WorkItem} {rest : List WorkItem}
    (h : s.pending = w :: rest) (hr : i.ready w = false) : s.engineStep i = s := by
  simp [State.engineStep, h, hr]

/-- Everything an engine step can do. -/
theorem State.engineStep_cases (s : State) (i : Inputs) :
    s.engineStep i = s ∨
    ∃ w rest, s.pending = w :: rest ∧ i.ready w = true ∧
      s.engineStep i = State.emit { s with pending := rest } w := by
  cases h : s.pending with
  | nil => exact .inl (State.engineStep_idle h i)
  | cons w rest =>
    cases hr : i.ready w
    · exact .inl (State.engineStep_holds h hr)
    · exact .inr ⟨w, rest, rfl, hr, State.engineStep_emits h hr⟩

/-- Everything a command can do (R180): nothing in a faulted block, a recorded fault, or its effect. -/
theorem exec_cases (i : Instr) (s : State) :
    (s.fault = true ∧ exec i s = .next s) ∨
    (s.fault = false ∧ ∃ c, c ≠ .none ∧ exec i s = .next (s.raise c)) ∨
    (s.fault = false ∧ s.initDone = false ∧ i = .init ∧
      exec i s = .next { s with
        initDone := true
        pending := ([LinkEvent.drive] ++ linkEvents configWrites ++ flush s.buf).map WorkItem.link }) ∨
    (s.fault = false ∧ s.initDone = true ∧ i = .clear ∧
      exec i s = .next { s with buf := blankRows, pending := [] }) ∨
    (s.fault = false ∧ s.initDone = true ∧ ∃ col row on, i = .setPixel col row on ∧
      exec i s = .next { s with buf := setPixel s.buf col row on, pending := [] }) ∨
    (s.fault = false ∧ s.initDone = true ∧ ∃ sym, i = .glyph sym ∧
      exec i s = .next { s with
        buf := glyphRows sym, pending := (flush (glyphRows sym)).map WorkItem.link }) ∨
    (s.fault = false ∧ ∃ o c, i = .sendFrame o ∧ controlState o = some c ∧
      exec i s = .next { s with pending := (frame c).map WorkItem.tx }) := by
  cases hf : s.fault
  case true =>
    refine .inl ⟨rfl, ?_⟩
    cases i with
    | sendFrame o =>
      simp only [exec, execSendFrame]
      split <;> exact State.conclude_faulted hf _ _
    | _ => exact State.conclude_faulted hf _ _
  case false =>
    cases i with
    | init =>
      cases hi : s.initDone
      · exact .inr (.inr (.inl ⟨rfl, rfl, rfl, by
          simp [exec, execInit, State.checkNotInitialized, hi, State.conclude_done hf, hf]⟩))
      · exact .inr (.inl ⟨rfl, .reinit, by decide, by
          simp [exec, execInit, State.checkNotInitialized, hi, State.conclude_raises hf]⟩)
    | clear =>
      cases hi : s.initDone
      · exact .inr (.inl ⟨rfl, .notInit, by decide, by
          simp [exec, execClear, State.checkInitialized, hi, State.conclude_raises hf]⟩)
      · exact .inr (.inr (.inr (.inl ⟨rfl, rfl, rfl, by
          simp [exec, execClear, State.checkInitialized, hi, State.conclude_done hf, hf]⟩)))
    | setPixel col row on =>
      cases hi : s.initDone
      · exact .inr (.inl ⟨rfl, .notInit, by decide, by
          simp [exec, execSetPixel, State.checkInitialized, hi, State.conclude_raises hf]⟩)
      · exact .inr (.inr (.inr (.inr (.inl ⟨rfl, rfl, col, row, on, rfl, by
          simp [exec, execSetPixel, State.checkInitialized, hi, State.conclude_done hf, hf]⟩))))
    | glyph sym =>
      cases hi : s.initDone
      · exact .inr (.inl ⟨rfl, .notInit, by decide, by
          simp [exec, execGlyph, State.checkInitialized, hi, State.conclude_raises hf]⟩)
      · exact .inr (.inr (.inr (.inr (.inr (.inl ⟨rfl, rfl, sym, rfl, by
          simp [exec, execGlyph, State.checkInitialized, hi, State.conclude_done hf, hf]⟩)))))
    | sendFrame o =>
      cases hc : controlState o with
      | none =>
        exact .inr (.inl ⟨rfl, .badOperand, by decide, by
          simp [exec, execSendFrame, hc, State.conclude_raises hf]⟩)
      | some c =>
        exact .inr (.inr (.inr (.inr (.inr (.inr ⟨rfl, o, c, rfl, hc, by
          simp [exec, execSendFrame, hc, State.conclude_done hf, hf]⟩)))))

/-- Everything the acceptance of a token can do. -/
theorem accept_cases (t : Token) (s : State) :
    (∃ i, decode t = .ok i ∧ accept t s = exec i s) ∨
    (s.fault = true ∧ accept t s = .next s) ∨
    (s.fault = false ∧ ∃ r, decode t = .error r ∧ accept t s = .next (s.raise (causeOf r))) := by
  cases hd : decode t with
  | ok i => exact .inl ⟨i, rfl, by simp [accept, hd]⟩
  | error r =>
    cases hf : s.fault
    · exact .inr (.inr ⟨rfl, r, rfl, by simp [accept, hd, State.reject, State.conclude_raises hf]⟩)
    · exact .inr (.inl ⟨rfl, by simp [accept, hd, State.reject, State.conclude_faulted hf]⟩)

/-- Everything a step can do: take a reset, run one engine step, accept a token, or wait. -/
theorem step_cases (s : State) :
    (s.inputs.reset = true ∧ step s = .next s.advanceInputs.takeReset) ∨
    (s.inputs.reset = false ∧ s.pending ≠ [] ∧
      step s = .next (s.advanceInputs.engineStep s.inputs)) ∨
    (s.inputs.reset = false ∧ s.pending = [] ∧ s.inputs.cmdValid = true ∧
      ∃ t ts, s.tokens = t :: ts ∧ step s = accept t s.advanceInputs.takeToken) ∨
    (s.inputs.reset = false ∧ s.pending = [] ∧ (s.inputs.cmdValid = false ∨ s.tokens = []) ∧
      step s = .next s.advanceInputs) := by
  cases hr : s.inputs.reset
  case true => exact .inl ⟨rfl, by simp [step, hr]⟩
  case false =>
    by_cases hp : s.pending = []
    case neg => exact .inr (.inl ⟨rfl, hp, by simp [step, hr, State.busy, hp]⟩)
    case pos =>
      cases hv : s.inputs.cmdValid
      case false =>
        exact .inr (.inr (.inr ⟨rfl, hp, .inl rfl, by
          simp [step, hr, State.busy, hp, State.acceptable, hv]⟩))
      case true =>
        cases ht : s.tokens with
        | nil =>
          exact .inr (.inr (.inr ⟨rfl, hp, .inr rfl, by
            simp [step, hr, State.busy, hp, State.acceptable, ht]⟩))
        | cons t ts =>
          exact .inr (.inr (.inl ⟨rfl, hp, rfl, t, ts, rfl, by
            simp [step, hr, State.busy, hp, State.acceptable, hv, State.cmdReady, ht]⟩))

end Sys2Proof.Machine
end

