-- ==== Sys2Proof/Laws/PerInstr.lean ====
section
/-! SUPPORT. Facts about every instruction as syntax, one lemma per constructor. -/

namespace Sys2Proof.Laws.RoundTrip

/-- The token of an instruction decodes to that instruction. -/
def Statement (i : Instr) : Prop := decode (encode i) = .ok i

theorem init : Statement .init := rfl

theorem clear : Statement .clear := rfl

theorem setPixel (col row : Byte) (on : Bool) : Statement (.setPixel col row on) := by
  have hop : (encode (.setPixel col row on)).cmd.extractLsb' 0 4 = 0x3#4 := by
    apply BitVec.eq_of_getLsbD_eq
    intro i hi
    simp only [encode, BitVec.getLsbD_extractLsb', BitVec.getLsbD_append]
    interval_cases i <;> simp
  have hreserved : (encode (.setPixel col row on)).cmd &&& reservedMask .setPixel = 0#32 := by
    apply BitVec.eq_of_getLsbD_eq
    intro i hi
    simp only [encode, reservedMask, BitVec.getLsbD_and, BitVec.getLsbD_append]
    interval_cases i <;> simp
  have hcol : (encode (.setPixel col row on)).cmd.extractLsb' 8 8 = col := by
    apply BitVec.eq_of_getLsbD_eq
    intro i hi
    simp only [encode, BitVec.getLsbD_extractLsb', BitVec.getLsbD_append]
    interval_cases i <;> simp
  have hrow : (encode (.setPixel col row on)).cmd.extractLsb' 16 8 = row := by
    apply BitVec.eq_of_getLsbD_eq
    intro i hi
    simp only [encode, BitVec.getLsbD_extractLsb', BitVec.getLsbD_append]
    interval_cases i <;> simp
  have hon : (encode (.setPixel col row on)).cmd.getLsbD 4 = on := by
    simp only [encode, BitVec.getLsbD_append]
    simp
  rw [Statement, decode_ok (opcodeOf_setPixel hop) hreserved]
  simp only [assembleOperands, hcol, hrow, hon]

theorem glyph (sym : Byte) : Statement (.glyph sym) := by
  have hop : (encode (.glyph sym)).cmd.extractLsb' 0 4 = 0x4#4 := by
    apply BitVec.eq_of_getLsbD_eq
    intro i hi
    simp only [encode, BitVec.getLsbD_extractLsb', BitVec.getLsbD_append]
    interval_cases i <;> simp
  have hreserved : (encode (.glyph sym)).cmd &&& reservedMask .glyph = 0#32 := by
    apply BitVec.eq_of_getLsbD_eq
    intro i hi
    simp only [encode, reservedMask, BitVec.getLsbD_and, BitVec.getLsbD_append]
    interval_cases i <;> simp
  have hsym : (encode (.glyph sym)).cmd.extractLsb' 8 8 = sym := by
    apply BitVec.eq_of_getLsbD_eq
    intro i hi
    simp only [encode, BitVec.getLsbD_extractLsb', BitVec.getLsbD_append]
    interval_cases i <;> simp
  rw [Statement, decode_ok (opcodeOf_glyph hop) hreserved]
  simp only [assembleOperands, hsym]

theorem sendFrame (o : OperandBlock) : Statement (.sendFrame o) := by
  have hop : (encode (.sendFrame o)).cmd.extractLsb' 0 4 = 0x5#4 := rfl
  have hreserved : (encode (.sendFrame o)).cmd &&& reservedMask .sendFrame = 0#32 := by
    simp [encode, reservedMask]
  have hopnd : (encode (.sendFrame o)).opnd = o.toBits := rfl
  rw [Statement, decode_ok (opcodeOf_sendFrame hop) hreserved]
  simp only [assembleOperands, hopnd, OperandBlock.ofBits_toBits]

end Sys2Proof.Laws.RoundTrip
end

