-- ==== Sys2Proof/Tests/Slice0.lean ====
section
/-! SUPPORT. Tests: expected values from the spec's own words (mostly 95_test_vectors.md), and for every
statement with hypotheses a concrete case that meets them. -/

namespace Sys2Proof.Tests

open Sys2Proof Sys2Proof.Machine

/-! ## WellFormed: an ill-formed instruction for each check (R81, R188) -/

theorem test_wf_refuses_fourth_gear : (Instr.sendFrame ⟨0, 0, 0, false, 3, 0, 0⟩).wf = false := by
  decide
theorem test_wf_refuses_fourth_turn : (Instr.sendFrame ⟨0, 0, 0, false, 0, 3, 0⟩).wf = false := by
  decide
theorem test_wf_refuses_reserved_operand_bit :
    (Instr.sendFrame ⟨0, 0, 0, false, 0, 0, 1⟩).wf = false := by decide
theorem test_wf_admits_legal_codes : (Instr.sendFrame ⟨1, 2, 3, true, 2, 2, 0⟩).wf = true := by decide

/-! ## Decode: words written out from the formats N, P, G (R72 to R75, 95 section 2.1) -/

theorem test_decode_init :
    decode ⟨0b00000000000000000000000000000001#32, 0#104⟩ = .ok .init := by decide
theorem test_decode_clear :
    decode ⟨0b00000000000000000000000000000010#32, 0#104⟩ = .ok .clear := by decide
/-- reserved 00000000, ROW 00000101, COL 00000011, reserved 000, ON 1, OP 0011: SETPIXEL 3, 5, 1. -/
theorem test_decode_setPixel :
    decode ⟨0b00000000000001010000001100010011#32, 0#104⟩ = .ok (.setPixel 3#8 5#8 true) := by decide
/-- reserved, ROW 00000111, COL 00000111, reserved 000, ON 0, OP 0011: SETPIXEL 7, 7, 0. -/
theorem test_decode_setPixel_off :
    decode ⟨0b00000000000001110000011100000011#32, 0#104⟩ = .ok (.setPixel 7#8 7#8 false) := by decide
/-- reserved, SYM 01000100, reserved 0000, OP 0100: GLYPH 'D'. -/
theorem test_decode_glyph :
    decode ⟨0b00000000000000000100010000000100#32, 0#104⟩ = .ok (.glyph 0x44#8) := by decide
/-- 95 section 2.1: acc=0x7FC00001, dec=0x80000000, ang=0x7FFFFFFF, hb=0, gear=R, turn=L. -/
theorem test_decode_sendFrame :
    decode ⟨0x00000005#32, 0x0C7FFFFFFF800000007FC00001#104⟩ =
      .ok (.sendFrame ⟨0x7FC00001#32, 0x80000000#32, 0x7FFFFFFF#32, false, 0b10#2, 0b01#2, 0b000#3⟩) := by
  decide
theorem test_encode_sendFrame :
    encode (.sendFrame ⟨0xAAAAAAAA#32, 0x000000AA#32, 0x80000000#32, true, 0b10#2, 0b10#2, 0b000#3⟩) =
      ⟨0x00000005#32, 0x1580000000000000AAAAAAAAAA#104⟩ := by decide
theorem test_decode_opcode_zero : decode ⟨0x00000000#32, 0#104⟩ = .error .illegalOpcode := by decide
theorem test_decode_opcode_six : decode ⟨0x00000006#32, 0#104⟩ = .error .illegalOpcode := by decide
theorem test_decode_opcode_before_reserved :
    decode ⟨0x00000110#32, 0#104⟩ = .error .illegalOpcode := by decide
theorem test_decode_init_bit_4 : decode ⟨0x00000011#32, 0#104⟩ = .error .reservedField := by decide
theorem test_decode_clear_bit_31 : decode ⟨0x80000002#32, 0#104⟩ = .error .reservedField := by decide
theorem test_decode_setPixel_bit_24 : decode ⟨0x01050313#32, 0#104⟩ = .error .reservedField := by decide
theorem test_decode_setPixel_bit_5 : decode ⟨0x00050333#32, 0#104⟩ = .error .reservedField := by decide
theorem test_decode_glyph_bit_16 : decode ⟨0x00014404#32, 0#104⟩ = .error .reservedField := by decide
theorem test_decode_glyph_bit_4 : decode ⟨0x00004414#32, 0#104⟩ = .error .reservedField := by decide
theorem test_decode_sendFrame_bit_4 : decode ⟨0x00000015#32, 0#104⟩ = .error .reservedField := by decide
theorem test_table_word_setPixel :
    decodeTableWord 32 0x00050313 = some (.setPixel 3#8 5#8 true) := by decide
/-- The operand block of a 32-bit table word is all zeros: gear P, turn N. -/
theorem test_table_word_sendFrame :
    decodeTableWord 32 0x00000005 = some (.sendFrame ⟨0, 0, 0, false, 0, 0, 0⟩) := by decide
theorem test_table_word_rejected : decodeTableWord 32 0x00000000 = none := by decide

/-! ## States the tests and witnesses start from -/

/-- The next state, where there is one. -/
def nextOf : Result → Option State
  | .next s => some s
  | .fault _ => none
  | .refused _ => none

/-- INIT has been accepted and its drive event has left; the buffer holds `rows`. -/
def initialized (rows : Rows) : State :=
  { State.reset with
    buf := rows, initDone := true, pins := ⟨.high, .low, .low⟩, log := [.emitted (.link .drive)] }

/-- `s` with the word `cmd` and the operand block `opnd` offered. -/
def offering (s : State) (cmd : Word) (opnd : BitVec 104) : State := { s with tokens := [⟨cmd, opnd⟩] }

/-- A field of the state one step after `s`. -/
def afterStep {α : Type} (s : State) (f : State → α) : Option α := (nextOf (step s)).map f

/-- Eight rows that are not blank. -/
def someRows : Rows := #v[0xFF#8, 0#8, 0#8, 0#8, 0#8, 0#8, 0#8, 0x01#8]

/-! ## One step each (95 sections 2.2 to 2.7) -/

/-- BUSY and INIT_DONE: 0x03. -/
theorem test_init_from_reset :
    afterStep (offering .reset 0x00000001#32 0#104) (fun u => (u.status, u.pending.length)) =
      some (0x03#8, 651) := by decide +kernel
theorem test_init_twice :
    afterStep (offering (initialized blankRows) 0x00000001#32 0#104) (fun u => (u.status, u.pending)) =
      some (0x46#8, []) := by decide
theorem test_clear :
    afterStep (offering (initialized someRows) 0x00000002#32 0#104) (fun u => (u.buf, u.status)) =
      some (#v[0, 0, 0, 0, 0, 0, 0, 0], 0x02#8) := by decide
theorem test_clear_before_init :
    afterStep (offering .reset 0x00000002#32 0#104) State.status = some 0x34#8 := by decide
/-- SETPIXEL 4, 2, 0 on a buffer that is all on. -/
theorem test_setPixel_off :
    afterStep
      (offering (initialized (Vector.replicate 8 0xFF#8)) 0x00020403#32 0#104) State.buf =
      some #v[0xFF, 0xFF, 0xEF, 0xFF, 0xFF, 0xFF, 0xFF, 0xFF] := by decide
/-- SETPIXEL 8, 0, 1: column 8 exactly is out of range. -/
theorem test_setPixel_out_of_range :
    afterStep (offering (initialized someRows) 0x00000813#32 0#104) (fun u => (u.buf, u.status)) =
      some (someRows, 0x02#8) := by decide
/-- BLANK: the buffer is blank and the flush follows. -/
theorem test_glyph_unknown :
    afterStep (offering (initialized someRows) 0x00000004#32 0#104)
      (fun u => (u.buf, u.pending.length, u.status)) =
      some (#v[0, 0, 0, 0, 0, 0, 0, 0], 400, 0x03#8) := by decide +kernel
theorem test_glyph_before_init :
    afterStep (offering .reset 0x00004404#32 0#104) State.status = some 0x34#8 := by decide
/-- The NaN row of 95 section 2.6. -/
theorem test_sendFrame_nan :
    afterStep (offering .reset 0x00000005#32 0x0C7FFFFFFF800000007FC00001#104) State.pending =
      some ([0xAA#8, 0x01#8, 0x00#8, 0xC0#8, 0x7F#8, 0x00#8, 0x00#8, 0x00#8, 0x80#8, 0xFF#8, 0xFF#8,
        0xFF#8, 0x7F#8, 0x00#8, 0x52#8, 0x4C#8].map .tx) := by decide
/-- The 0xAA row of 95 section 2.6: nothing is escaped. -/
theorem test_sendFrame_header_in_payload :
    afterStep (offering .reset 0x00000005#32 0x1580000000000000AAAAAAAAAA#104) State.pending =
      some ([0xAA#8, 0xAA#8, 0xAA#8, 0xAA#8, 0xAA#8, 0xAA#8, 0x00#8, 0x00#8, 0x00#8, 0x00#8, 0x00#8,
        0x00#8, 0x80#8, 0x01#8, 0x52#8, 0x52#8].map .tx) := by decide
theorem test_fault_illegal_opcode :
    afterStep (offering (initialized blankRows) 0x0000000F#32 0#104) State.status = some 0x16#8 := by
  decide
theorem test_fault_reserved_before_notInit :
    afterStep (offering .reset 0x00000102#32 0#104) State.status = some 0x24#8 := by decide
theorem test_fault_reserved_before_badOperand :
    afterStep (offering .reset 0x00000015#32 0x06000000000000000000000000#104) State.status =
      some 0x24#8 := by decide
theorem test_fault_bad_gear :
    afterStep (offering .reset 0x00000005#32 0x06000000000000000000000000#104) State.status =
      some 0x54#8 := by decide
theorem test_fault_bad_turn :
    afterStep (offering .reset 0x00000005#32 0x18000000000000000000000000#104) State.status =
      some 0x54#8 := by decide
theorem test_fault_operand_bit_101 :
    afterStep (offering .reset 0x00000005#32 0x20000000000000000000000000#104) State.status =
      some 0x54#8 := by decide
theorem test_faulted_discards_init :
    afterStep (offering { State.reset with fault := true, cause := .notInit } 0x00000001#32 0#104)
      (fun u => (u.status, u.pending, u.tokens)) = some (0x34#8, [], []) := by decide
theorem test_fetch_word_runs :
    nextOf (step (State.reset.withFetchWord 32 0x00000005)) =
      nextOf (exec (.sendFrame ⟨0, 0, 0, false, 0, 0, 0⟩) State.reset) := by decide

/-! ## The link and its observation (95 section 2.3) -/

/-- `RW(0x0A, 0x0F)`: the bits in shift order are 0000 1010 0000 1111. -/
theorem test_register_write_bits :
    (ChipWrite.events ⟨0x0A#8, 0x0F#8⟩) =
      .setCS false ::
        ([false, false, false, false, true, false, true, false,
          false, false, false, false, true, true, true, true].flatMap shiftBit) ++ [.setCS true] := by
  decide
theorem test_writes_unsent_pair :
    writes (.drive :: ChipWrite.events ⟨0x55#8, 0xA3#8⟩) = [⟨0x55#8, 0xA3#8⟩] := by decide
/-- A trace cut after `SetCS(0)` and 10 bit triples adds nothing. -/
theorem test_writes_cut :
    writes (.drive :: (ChipWrite.events ⟨0x55#8, 0xA3#8⟩).take 31) = [] := by decide
/-- The spec's flush example (R130). -/
theorem test_flush_example :
    writes (.drive :: flush #v[0x3C, 0x42, 0x42, 0x42, 0x42, 0x42, 0x3C, 0x00]) =
      [⟨0x01, 0x3C⟩, ⟨0x02, 0x42⟩, ⟨0x03, 0x42⟩, ⟨0x04, 0x42⟩, ⟨0x05, 0x42⟩, ⟨0x06, 0x42⟩, ⟨0x07, 0x3C⟩,
       ⟨0x08, 0x00⟩] := by decide +kernel

/-! ## The assembler (R83, R84, 95 section 2.1) -/

theorem test_assemble_setPixel :
    assemble "SETPIXEL 3, 5, 1 ; one pixel" = some [⟨0x00050313#32, 0#104⟩] := by decide
theorem test_assemble_pseudo :
    assemble "PIXON 2, 6\nPIXOFF 2, 0x6\n\nBLANK" =
      some [⟨0x00060213#32, 0#104⟩, ⟨0x00060203#32, 0#104⟩, ⟨0x00000004#32, 0#104⟩] := by decide +kernel
theorem test_assemble_glyph : assemble "GLYPH 'R'" = some [⟨0x00005204#32, 0#104⟩] := by decide
/-- The comment begins right after the literal 'D' (R83; log entry 11). -/
theorem test_assemble_comment_after_literal : assemble "GLYPH 'D';'x" = some [⟨0x00004404#32, 0#104⟩] := by
  decide
theorem test_assemble_semicolon_literal : assemble "GLYPH ';';';" = some [⟨0x00003B04#32, 0#104⟩] := by
  decide
theorem test_assemble_sendFrame :
    assemble "SENDFRAME acc=1.5, dec=0.0, ang=-42, hb=1, gear=D, turn=N" =
      some [⟨0x00000005#32, 0x03FFFFFFD6000000003FC00000#104⟩] := by decide +kernel
theorem test_assemble_refuses_missing_operand : assemble "SETPIXEL 3, 5" = none := by decide
/-- 95 section 2.6: -0.5 is 0xBF000000 and 2.0 is 0x40000000. -/
theorem test_float_literals :
    f32Operand "-0.5".toList = some 0xBF000000#32 ∧ f32Operand "2.0".toList = some 0x40000000#32 := by
  decide
/-- 2^24 + 1 lies halfway between two binary32 values and goes to the even one. -/
theorem test_float_tie_to_even : f32Operand "16777217".toList = some 0x4B800000#32 := by decide

/-! ## Witnesses: for every statement with hypotheses, a case that meets them -/

/-- An idle block after INIT that is offered GLYPH 'D'. -/
def offered : State := offering (initialized someRows) 0x00004404#32 0#104

theorem test_witness_offers : offered.Offers ⟨0x00004404#32, 0#104⟩ [] := ⟨rfl, rfl, rfl, rfl⟩

theorem test_witness_StepRunsTheDecodedCommand :
    offered.Offers ⟨0x00004404#32, 0#104⟩ [] ∧ decode ⟨0x00004404#32, 0#104⟩ = .ok (.glyph 0x44#8) :=
  ⟨test_witness_offers, by decide⟩

theorem test_witness_AcceptanceIsThePseudocode :
    ∃ s : State, s.Offers ⟨0x00000000#32, 0#104⟩ [] := ⟨offering .reset 0 0, rfl, rfl, rfl, rfl⟩

theorem test_witness_DecodedTokenIsItsEncoding :
    decode ⟨0x00000005#32, 0x08FFFFFFFF000000017F800000#104⟩ =
      .ok (.sendFrame ⟨0x7F800000#32, 0x00000001#32, 0xFFFFFFFF#32, false, 0b00#2, 0b01#2, 0b000#3⟩) := by
  decide

theorem test_witness_OperandsAreTheFieldsOfTheToken :
    decode ⟨0x00FF0013#32, 0#104⟩ = .ok (.setPixel 0x00#8 0xFF#8 true) ∧
    decode ⟨0x0000FF04#32, 0#104⟩ = .ok (.glyph 0xFF#8) ∧
    decode ⟨0x00000005#32, 0xFF000000000000000000000000#104⟩ =
      .ok (.sendFrame ⟨0, 0, 0, true, 0b11#2, 0b11#2, 0b111#3⟩) := by decide

theorem test_witness_TokenIsTakenExactlyAtTheHandshake :
    offered.inputs.reset = false ∧ offered.inputs.cmdValid = true ∧ offered.pending = [] ∧
    ({ offered with pending := [.tx 0] } : State).inputs.reset = false := by decide

/-- A busy block: one link event and one byte left, and the gates as given. -/
def busyWith (w : WorkItem) (linkReady txReady : Bool) : State :=
  { initialized someRows with pending := [w, .tx 0x4E#8], settled := ⟨false, true, linkReady, txReady⟩ }

theorem test_witness_BusyStepEmitsTheHeadOrHolds :
    (busyWith (.link (.setCS true)) true false).inputs.reset = false ∧
    (busyWith (.link (.setCS true)) true false).pending = .link (.setCS true) :: [.tx 0x4E#8] ∧
    (busyWith (.link (.setCS true)) true false).inputs.linkReady = true ∧
    (busyWith (.link (.setCS true)) false true).inputs.linkReady = false ∧
    (busyWith (.tx 0xAA#8) false true).pending = .tx 0xAA#8 :: [.tx 0x4E#8] ∧
    (busyWith (.tx 0xAA#8) false true).inputs.txReady = true ∧
    (busyWith (.tx 0xAA#8) true false).inputs.txReady = false := by decide

theorem test_witness_OutputsLeaveInWorkListOrder :
    (∃ u, (busyWith (.tx 0xAA#8) false true).inputs.reset = false ∧
      step (busyWith (.tx 0xAA#8) false true) = .next u ∧
      (busyWith (.tx 0xAA#8) false true).pending ≠ []) ∧
    ∃ u, offered.inputs.reset = false ∧ step offered = .next u ∧ offered.pending = [] :=
  ⟨⟨_, rfl, rfl, by decide⟩, _, rfl, rfl, rfl⟩

theorem test_witness_IdleBlockWaits :
    State.reset.inputs.reset = false ∧ State.reset.pending = [] ∧ State.reset.tokens = [] ∧
    ({ offered with settled := ⟨false, false, true, true⟩ } : State).inputs.reset = false ∧
    ({ offered with settled := ⟨false, false, true, true⟩ } : State).pending = [] ∧
    ({ offered with settled := ⟨false, false, true, true⟩ } : State).inputs.cmdValid = false := by decide

/-- A faulted block, with the reset line as given. -/
def faulted (reset : Bool) : State :=
  { offered with fault := true, cause := .reinit, settled := ⟨reset, true, true, true⟩ }

theorem test_witness_ResetTakesEffectAtOnce :
    (faulted true).inputs.reset = true ∧
    ∃ u, step (faulted true) = .next u ∧ (faulted true).fault = true ∧ u.fault = false :=
  ⟨rfl, _, rfl, rfl, rfl⟩

theorem test_witness_ResetDiscardsTheRestOfTheCommand :
    (faulted true).inputs.reset = true ∧ (faulted true).tokens ≠ [] := by decide

theorem test_faulted_inv : Inv (faulted false) where
  causeAgrees := by decide
  blankBeforeInit := by decide
  undrivenBeforeInit := by intro h; cases h
  drivenAfterInit := fun _ => .inl (by decide)
  pendingAllowed := by decide
  pinsAgree := by decide
  idleWhenFaulted := by decide

theorem test_witness_FaultedBlockDiscardsEveryToken :
    (faulted false).fault = true ∧ (faulted false).inputs.reset = false ∧
    (faulted false).Offers ⟨0x00004404#32, 0#104⟩ [] ∧ Inv (faulted false) :=
  ⟨rfl, rfl, ⟨rfl, rfl, rfl, rfl⟩, test_faulted_inv⟩

theorem test_witness_RefusedCommandHasNoPartialEffect :
    ∃ u, (offering State.reset 0x00000002#32 0#104).Offers ⟨0x00000002#32, 0#104⟩ [] ∧
      (offering State.reset 0x00000002#32 0#104).fault = false ∧
      step (offering State.reset 0x00000002#32 0#104) = .next u ∧ u.fault = true :=
  ⟨_, ⟨rfl, rfl, rfl, rfl⟩, rfl, rfl, rfl⟩

/-- The states of the sequencing and the command statements, before and after INIT, both unfaulted. -/
theorem test_witness_unfaulted_before_and_after_init :
    State.reset.fault = false ∧ State.reset.initDone = false ∧
    (initialized someRows).fault = false ∧ (initialized someRows).initDone = true := by decide

theorem test_witness_SequencingFaults :
    (initialized someRows).fault = false ∧ State.reset.fault = false ∧
    OperandBlock.wf ⟨0, 0, 0, true, 0b10#2, 0b10#2, 0#3⟩ = true := by decide

/-- Each disjunct of the operand check alone, and the largest operands that pass it. -/
theorem test_witness_BadOperandIsCheckedOnTheOperandBlock :
    State.reset.fault = false ∧
    (⟨0, 0, 0, false, 0b11, 0b10, 0b000⟩ : OperandBlock).gear = 0b11#2 ∧
    (⟨0, 0, 0, false, 0b10, 0b11, 0b000⟩ : OperandBlock).turn = 0b11#2 ∧
    (⟨0, 0, 0, false, 0b10, 0b10, 0b100⟩ : OperandBlock).reserved ≠ 0b000#3 ∧
    OperandBlock.wf ⟨0xFFFFFFFF, 0xFFFFFFFF, 0xFFFFFFFF, true, 0b10, 0b10, 0b000⟩ = true := by decide

/-- In range at the last pixel; out of range at the first column and at the first row. -/
theorem test_witness_SetPixelCompletes :
    (initialized someRows).fault = false ∧ (initialized someRows).initDone = true ∧
    ((7#8).toNat < 8 ∧ (7#8).toNat < 8) ∧ ¬((8#8).toNat < 8 ∧ (0#8).toNat < 8) ∧
    ¬((0#8).toNat < 8 ∧ (8#8).toNat < 8) := by decide

/-- Neighbours of the three symbols are unknown ones. -/
theorem test_witness_GlyphCompletes :
    (initialized someRows).fault = false ∧ (initialized someRows).initDone = true ∧
    glyphRead 0x43#8 = none ∧ glyphRead 0x45#8 = none ∧ glyphRead 0x4F#8 = none ∧
    glyphRead 0x51#8 = none ∧ glyphRead 0x53#8 = none ∧ glyphRead 0x64#8 = none := by decide

theorem test_witness_GlyphIsClearThenSetPixels :
    (initialized someRows).fault = false ∧ (initialized someRows).initDone = true ∧
    glyphRead 0x44#8 = some Config.glyphD ∧ glyphRead 0x52#8 = some Config.glyphR ∧
    glyphRead 0x50#8 = some Config.glyphP := ⟨rfl, rfl, rfl, rfl, rfl⟩

theorem test_witness_SendFrameCompletes :
    State.reset.fault = false ∧ (0b00#2 ≠ 0b11#2) ∧ (0b10#2 ≠ 0b11#2) ∧
    (⟨1, 2, 3, true, 0b00, 0b10, 0b000⟩ : OperandBlock).reserved = 0b000#3 := by decide

theorem test_witness_FrameDependsOnTheOperandsOnly :
    OperandBlock.wf ⟨1, 2, 3, true, 0b01, 0b00, 0b000⟩ = true ∧ State.reset.fault = false ∧
    (initialized someRows).fault = false ∧ State.reset.buf ≠ (initialized someRows).buf := by decide

theorem test_witness_WorkListLengths :
    State.reset.fault = false ∧ State.reset.initDone = false ∧ (initialized someRows).initDone = true ∧
    OperandBlock.wf ⟨0, 0, 0, false, 0b00, 0b01, 0b000⟩ = true := by decide

theorem test_witness_ClearAndSetPixelAreIdempotent :
    (∃ u, exec .clear (initialized someRows) = .next u ∧ u ≠ initialized someRows) ∧
    ∃ u, exec (.setPixel 0 0 false) (initialized someRows) = .next u ∧ u ≠ initialized someRows :=
  ⟨⟨_, rfl, by decide⟩, _, rfl, by decide⟩

theorem test_witness_BufferIsWrittenOnlyByThreeCommands :
    ∃ u, step (offering (initialized someRows) 0x00000002#32 0#104) = .next u ∧
      u.buf ≠ (offering (initialized someRows) 0x00000002#32 0#104).buf := ⟨_, rfl, by decide⟩

theorem test_witness_InitDoneIsSetByInitAndClearedByReset :
    (∃ u, step (offering .reset 0x00000001#32 0#104) = .next u ∧
      u.initDone ≠ (offering .reset 0x00000001#32 0#104).initDone) ∧
    ∃ u, step (faulted true) = .next u ∧ u.initDone ≠ (faulted true).initDone :=
  ⟨⟨_, rfl, by decide⟩, _, rfl, by decide⟩

theorem test_witness_FaultIsSetByARefusalAndClearedByReset :
    (∃ u, step (offering .reset 0x00000002#32 0#104) = .next u ∧
      u.fault ≠ (offering .reset 0x00000002#32 0#104).fault) ∧
    ∃ u, step (faulted true) = .next u ∧ u.fault ≠ (faulted true).fault :=
  ⟨⟨_, rfl, by decide⟩, _, rfl, by decide⟩

theorem test_witness_ChipAddressesAreTheThirteenUsedOnes :
    ∃ u, State.reset.pending = [] ∧ exec .init State.reset = .next u ∧
      ⟨0x0C#8, 0x01#8⟩ ∈
        writes (.drive :: u.pending.filterMap fun x => (Observed.emitted x).linkEvent) :=
  ⟨_, rfl, rfl, by decide +kernel⟩

theorem test_witness_WritesReadBackWhatWasSent :
    (List.replicate 16 true).length = 16 ∧ (List.replicate 15 true).length ≠ 16 ∧
    (List.replicate 17 true).length ≠ 16 := by decide

theorem test_witness_CutWriteAddsNothing : (0 < 50) ∧ (49 < 50) := by decide

theorem test_witness_PinRulesHoldOnTheLink :
    (⟨0x08#8, 0x80#8⟩ : ChipWrite) ∈ [(⟨0x08#8, 0x80#8⟩ : ChipWrite)] := by decide

/-- A busy block whose environment changes from step to step: the host offers nothing, and each gate is
open only in the step that needs it. -/
def changingGates : State :=
  { busyWith (.link (.setCS true)) false false with
    upcoming := [⟨false, false, true, false⟩, ⟨false, false, false, true⟩] }

theorem test_witness_WorkListDrains :
    changingGates.pending.length = 2 ∧
    ∀ (k : Nat) (h : k < changingGates.pending.length),
      (changingGates.inputsAt k).reset = false ∧
        (changingGates.inputsAt k).ready changingGates.pending[k] = true :=
  ⟨rfl, by decide⟩

/-- The awaited gate stays closed while `cmd_valid` and the other gate change. -/
theorem test_witness_ClosedGateStallsForEver :
    changingGates.pending = .link (.setCS true) :: [.tx 0x4E#8] ∧
    (∀ k, k < 3 →
      (({ changingGates with upcoming := [⟨false, true, false, false⟩, ⟨false, false, false, true⟩] } :
          State).inputsAt k).reset = false ∧
      (({ changingGates with upcoming := [⟨false, true, false, false⟩, ⟨false, false, false, true⟩] } :
          State).inputsAt k).ready (.link (.setCS true)) = false) ∧
    (busyWith (.tx 0xAA#8) true false).pending = .tx 0xAA#8 :: [.tx 0x4E#8] ∧
    ∀ k, k < 3 →
      ((busyWith (.tx 0xAA#8) true false).inputsAt k).reset = false ∧
      ((busyWith (.tx 0xAA#8) true false).inputsAt k).ready (.tx 0xAA#8) = false := by decide

theorem test_witness_ConsecutiveFramesAbut :
    ∃ (os : List OperandBlock) (s : State), os.length = 2 ∧ s.smoothRun ∧ s.pending = [] ∧
      s.fault = false ∧ (∀ o ∈ os, o.wf = true) ∧
      s.tokens = os.map (fun o => encode (.sendFrame o)) ++ [⟨0x00000001#32, 0#104⟩] :=
  ⟨[⟨1, 2, 3, true, 0b01, 0b00, 0b000⟩, ⟨0, 0, 0, false, 0b10, 0b10, 0b000⟩],
    { State.reset with
      tokens :=
        [encode (.sendFrame ⟨1, 2, 3, true, 0b01, 0b00, 0b000⟩),
         encode (.sendFrame ⟨0, 0, 0, false, 0b10, 0b10, 0b000⟩), ⟨0x00000001#32, 0#104⟩] },
    rfl, ⟨rfl, rfl⟩, rfl, rfl, by decide, by decide⟩

/-- A block in the middle of the first register write, with the reset line up. -/
def midWrite : State :=
  { initialized blankRows with
    pending := ((ChipWrite.events ⟨0x09#8, 0x00#8⟩).drop 2).map .link
    pins := ⟨.low, .low, .low⟩
    log := [.emitted (.link .drive), .emitted (.link (.setCS false)), .emitted (.link (.setDIN false))]
    settled := ⟨true, true, true, true⟩ }

theorem test_midWrite_inv : Inv midWrite where
  causeAgrees := by decide
  blankBeforeInit := by decide
  undrivenBeforeInit := by intro h; cases h
  drivenAfterInit := fun _ => .inl (by decide)
  pendingAllowed := by decide +kernel
  pinsAgree := by decide
  idleWhenFaulted := by decide

theorem test_witness_EveryStepKeepsTheInvariant : ∃ u, Inv midWrite ∧ step midWrite = .next u :=
  ⟨_, test_midWrite_inv, rfl⟩

theorem test_initialized_inv : Inv (initialized someRows) where
  causeAgrees := by decide
  blankBeforeInit := by decide
  undrivenBeforeInit := by intro h; cases h
  drivenAfterInit := fun _ => .inl (by decide)
  pendingAllowed := by decide
  pinsAgree := by decide
  idleWhenFaulted := by decide

theorem test_offering_before_init_inv : Inv (offering .reset 0x00000001#32 0#104) where
  causeAgrees := by decide
  blankBeforeInit := by decide
  undrivenBeforeInit := fun _ => ⟨rfl, by intro e h; cases h⟩
  drivenAfterInit := by intro h; cases h
  pendingAllowed := by decide
  pinsAgree := by decide
  idleWhenFaulted := by decide

theorem test_witness_IdlePinsAreUndrivenOrAtRest :
    (Inv (initialized someRows) ∧ (initialized someRows).pending = [] ∧
      (initialized someRows).initDone = true) ∧
    Inv (offering .reset 0x00000001#32 0#104) ∧ (offering .reset 0x00000001#32 0#104).pending = [] ∧
      (offering .reset 0x00000001#32 0#104).initDone = false :=
  ⟨⟨test_initialized_inv, rfl, rfl⟩, test_offering_before_init_inv, rfl, rfl⟩

/-- A block that sent a byte, was initialized, and was reset in an earlier part of the run. -/
def usedBefore : State :=
  { State.reset with log := [.emitted (.tx 0xAA#8), .emitted (.link .drive), .resetMark] }

theorem test_usedBefore_inv : Inv usedBefore where
  causeAgrees := by decide
  blankBeforeInit := by decide
  undrivenBeforeInit := fun _ => ⟨rfl, by intro e h; cases h⟩
  drivenAfterInit := by intro h; cases h
  pendingAllowed := by decide
  pinsAgree := by decide
  idleWhenFaulted := by decide

theorem test_witness_ChipViewAfterInit :
    ∃ u, Inv usedBefore ∧ usedBefore.fault = false ∧ usedBefore.initDone = false ∧
      exec .init usedBefore = .next u ∧
      ∀ k, k < u.pending.length → (u.inputsAt k).reset = false ∧ (u.inputsAt k).linkReady = true :=
  ⟨_, test_usedBefore_inv, rfl, rfl, rfl, fun _ _ => ⟨rfl, rfl⟩⟩

/-- A reset in the middle of a write, and a block before its INIT. -/
theorem test_witness_ChipUnknownAfterReset :
    (∃ u, midWrite.inputs.reset = true ∧ midWrite.pins.cs = .low ∧ step midWrite = .next u) ∧
    Inv usedBefore ∧ usedBefore.initDone = false := ⟨⟨_, rfl, rfl, rfl⟩, test_usedBefore_inv, rfl⟩

/-- Two steps into INIT, its first and last write, and an address it does not use. -/
theorem test_witness_ChipRegistersKnownAsInitWritesThem :
    ∃ u v, Inv usedBefore ∧ usedBefore.fault = false ∧ usedBefore.initDone = false ∧
      exec .init usedBefore = .next u ∧ (∀ k, k < 2 → (u.inputsAt k).reset = false) ∧
      Host.Core.run core 2 u = .next v ∧ v.log.length < u.log.length + u.pending.length ∧
      configWrites[0]? = some ⟨0x09#8, 0x00#8⟩ ∧
      (rowWrites usedBefore.buf)[7]? = some ⟨0x08#8, 0x00#8⟩ ∧ 0x10 ≤ (0x10#8).toNat :=
  ⟨_, _, test_usedBefore_inv, rfl, rfl, rfl, fun _ _ => rfl, rfl, by decide +kernel, rfl, rfl, by decide⟩

/-- R141: the write of decode mode has left, the next one has not; the old contents of 0x0C, written
before a reset, are unknown. -/
theorem test_chip_view_in_the_middle_of_init :
    let s : State :=
      { State.reset with
        log :=
          ((LinkEvent.drive :: ChipWrite.events ⟨0x0C#8, 0x01#8⟩).map fun e => .emitted (.link e)) ++
            [.resetMark] ++
            ((.drive :: ChipWrite.events ⟨0x09#8, 0x00#8⟩ ++ (ChipWrite.events ⟨0x0A#8, 0x0F#8⟩).take 49).map
              fun e => .emitted (.link e)) }
    s.chipRegister 0x09#8 = some 0x00#8 ∧ s.chipRegister 0x0A#8 = none ∧ s.chipRegister 0x0C#8 = none := by
  decide +kernel

end Sys2Proof.Tests
end

/-! # Proofs of family 10_state.md

The text has four layers: what the link events of register writes do to the pins, one inversion of the
acceptance and of the step, the parts of the invariant, and the statements settled from them. -/

/-! ## The chip link: pins and pin rules of register writes (R132 to R135) -/

namespace Sys2Proof.Machine

@[simp] theorem Pin.level_ne_z (l : Bool) : Pin.level l ≠ .z := by
  cases l <;> simp [Pin.level]

@[simp] theorem Pin.level_true : Pin.level true = .high := rfl

@[simp] theorem Pin.level_false : Pin.level false = .low := rfl

theorem Pins.resting_iff (p : Pins) :
    p.resting = true ↔ p.cs = .high ∧ p.clk = .low ∧ p.din ≠ .z := by
  obtain ⟨cs, clk, din⟩ := p
  constructor
  · intro h
    simp only [Pins.resting, Pins.driven, Bool.and_eq_true, bne_iff_ne, beq_iff_eq] at h
    obtain ⟨⟨⟨-, hdin⟩, hcs⟩, hclk⟩ := h
    exact ⟨hcs, hclk, hdin⟩
  · rintro ⟨rfl, rfl, hdin⟩
    simp [Pins.resting, Pins.driven, hdin]

@[simp] theorem Pins.driven_undriven : Pins.undriven.driven = false := rfl

/-- Only `Drive` is allowed to find undriven pins, and no event takes a pin away (R134). -/
theorem Pins.driven_apply {p : Pins} {e : LinkEvent} (h : eventAllowed p e = true) :
    (p.apply e).driven = true := by
  cases e with
  | drive => rfl
  | _ l =>
    simp only [eventAllowed, Pins.driven, Bool.and_eq_true, bne_iff_ne] at h
    simp [Pins.apply, Pins.driven, h]

/-- SHIFT16 shifts a list of bits, the bits of the word from bit 15 down (R133). -/
theorem shift16_eq_flatMap (w : BitVec 16) :
    shift16 w = (shiftOrder.map w.getLsbD).flatMap shiftBit := by
  simp [shift16, List.flatMap_map]

/-- Shifted bits leave CLK low and DIN at the last bit, and do not touch CS (R133). -/
theorem foldl_apply_shiftBits (bits : List Bool) (b : Bool) (p : Pins) :
    ((bits ++ [b]).flatMap shiftBit).foldl Pins.apply p = ⟨p.cs, .low, .level b⟩ := by
  induction bits generalizing p with
  | nil => rfl
  | cons x bits ih => rw [List.cons_append, List.flatMap_cons, List.foldl_append, ih]; rfl

/-- A register write leaves CS high, CLK low and DIN at bit 0 of its data (R32, R132). -/
theorem ChipWrite.foldl_apply_events (w : ChipWrite) (p : Pins) :
    w.events.foldl Pins.apply p = ⟨.high, .low, .level (w.data.getLsbD 0)⟩ := by
  have hlast : (w.addr ++ w.data).getLsbD 0 = w.data.getLsbD 0 := by
    rw [BitVec.getLsbD_append, if_pos (by decide)]
  have hbits : shiftOrder.map (w.addr ++ w.data).getLsbD =
      shiftOrder.dropLast.map (w.addr ++ w.data).getLsbD ++ [w.data.getLsbD 0] := by
    rw [← hlast]; rfl
  rw [ChipWrite.events, shift16_eq_flatMap, hbits, List.foldl_append, List.foldl_append,
    foldl_apply_shiftBits]
  rfl

/-- While CS is low, any shifted bits keep the pin rules, if what follows them does from there (R135). -/
theorem itemsAllowed_shiftBits_append {es : List LinkEvent}
    (hes : ∀ d, d ≠ .z → itemsAllowed ⟨.low, .low, d⟩ (es.map .link) = true)
    (bits : List Bool) {d : Pin} (hd : d ≠ .z) :
    itemsAllowed ⟨.low, .low, d⟩ ((bits.flatMap shiftBit ++ es).map .link) = true := by
  induction bits generalizing d with
  | nil => exact hes d hd
  | cons b bits ih =>
    simpa [shiftBit, itemsAllowed, eventAllowed, Pins.driven, Pins.apply, hd] using
      ih (Pin.level_ne_z b)

/-- Register writes that find the pins at rest keep the pin rules and leave the pins at rest (R32, R135). -/
theorem itemsAllowed_linkEvents (ws : List ChipWrite) {d : Pin} (hd : d ≠ .z) :
    itemsAllowed ⟨.high, .low, d⟩ ((linkEvents ws).map .link) = true := by
  induction ws generalizing d with
  | nil => simp [itemsAllowed, Pins.resting_iff, hd]
  | cons w ws ih =>
    have hend : ∀ d, d ≠ .z →
        itemsAllowed ⟨.low, .low, d⟩ ((.setCS true :: linkEvents ws).map .link) = true := by
      intro d hd
      simpa [itemsAllowed, eventAllowed, Pins.driven, Pins.apply, hd] using ih hd
    have hshift := itemsAllowed_shiftBits_append hend (shiftOrder.map (w.addr ++ w.data).getLsbD) hd
    simpa [linkEvents_cons, ChipWrite.events, shift16_eq_flatMap, itemsAllowed, eventAllowed,
      Pins.driven, Pins.apply, hd] using hshift

/-- `Drive` may come first on undriven pins, and register writes may follow it (R134, R135). -/
theorem itemsAllowed_drive_linkEvents (ws : List ChipWrite) :
    itemsAllowed .undriven ((.drive :: linkEvents ws).map .link) = true :=
  itemsAllowed_linkEvents ws (d := .low) (by decide)

/-- Bytes of the serial port do not touch the pins, so they only ask that the pins are at rest already. -/
theorem itemsAllowed_map_tx (p : Pins) (bs : List Byte) :
    itemsAllowed p (bs.map .tx) = itemsAllowed p [] := by
  induction bs with
  | nil => rfl
  | cons b bs ih => exact ih

@[simp] theorem pinsOfLog_append_singleton (log : List Observed) (o : Observed) :
    pinsOfLog (log ++ [o]) = pinsAfterEntry (pinsOfLog log) o := by
  simp [pinsOfLog]

/-! ## What the acceptance of a token and a step can do, as inversions -/

/-- `execute(op)` of a command that passes every check (R101, R110, R113, R117, R150), as a relation
between the state before and the state after. -/
inductive Executes (s : State) : Instr → State → Prop
  | init (hi : s.initDone = false) :
      Executes s .init { s with
        initDone := true
        pending := ([LinkEvent.drive] ++ linkEvents configWrites ++ flush s.buf).map WorkItem.link }
  | clear (hi : s.initDone = true) : Executes s .clear { s with buf := blankRows, pending := [] }
  | setPixel (hi : s.initDone = true) (col row : Byte) (on : Bool) :
      Executes s (.setPixel col row on) { s with buf := setPixel s.buf col row on, pending := [] }
  | glyph (hi : s.initDone = true) (sym : Byte) :
      Executes s (.glyph sym) { s with
        buf := glyphRows sym, pending := (flush (glyphRows sym)).map WorkItem.link }
  | sendFrame {o : OperandBlock} {c : ControlState} (hc : controlState o = some c) :
      Executes s (.sendFrame o) { s with pending := (frame c).map WorkItem.tx }

/-- What accepting token `t` in state `s` can lead to (R180). -/
inductive Accepts (s : State) (t : Token) : State → Prop
  | discarded (hf : s.fault = true) : Accepts s t s
  | refused (hf : s.fault = false) {c : Cause} (hc : c ≠ .none) : Accepts s t (s.raise c)
  | executed (hf : s.fault = false) {i : Instr} (hd : decode t = .ok i) {u : State}
      (hx : Executes s i u) : Accepts s t u

/-- What one step from `s` can lead to: a reset (R210), an engine step that holds or emits (R220), an
accepted token (R180), or waiting (R212). -/
inductive Steps (s : State) : State → Prop
  | reset (hr : s.inputs.reset = true) : Steps s s.advanceInputs.takeReset
  | holds (hr : s.inputs.reset = false) (hp : s.pending ≠ []) : Steps s s.advanceInputs
  | emits (hr : s.inputs.reset = false) {w : WorkItem} {rest : List WorkItem}
      (hp : s.pending = w :: rest) (hg : s.inputs.ready w = true) :
      Steps s (State.emit { s.advanceInputs with pending := rest } w)
  | accepts {t : Token} {ts : List Token} (ho : s.Offers t ts) {u : State}
      (ha : Accepts (s.accepting ts) t u) : Steps s u
  | waits (hr : s.inputs.reset = false) (hp : s.pending = [])
      (hw : s.inputs.cmdValid = false ∨ s.tokens = []) : Steps s s.advanceInputs

theorem exec_next_accepts {s : State} {t : Token} {i : Instr} (hd : decode t = .ok i) :
    ∃ u, exec i s = .next u ∧ Accepts s t u := by
  obtain ⟨hf, hx⟩ | ⟨hf, c, hc, hx⟩ | ⟨hf, hi, rfl, hx⟩ | ⟨hf, hi, rfl, hx⟩ |
    ⟨hf, hi, col, row, on, rfl, hx⟩ | ⟨hf, hi, sym, rfl, hx⟩ | ⟨hf, o, c, rfl, hc, hx⟩ := exec_cases i s
  · exact ⟨_, hx, .discarded hf⟩
  · exact ⟨_, hx, .refused hf hc⟩
  · exact ⟨_, hx, .executed hf hd (.init hi)⟩
  · exact ⟨_, hx, .executed hf hd (.clear hi)⟩
  · exact ⟨_, hx, .executed hf hd (.setPixel hi col row on)⟩
  · exact ⟨_, hx, .executed hf hd (.glyph hi sym)⟩
  · exact ⟨_, hx, .executed hf hd (.sendFrame hc)⟩

theorem causeOf_ne_none (r : Rejection) : causeOf r ≠ .none := by
  cases r <;> decide

theorem accept_next_accepts (t : Token) (s : State) : ∃ u, accept t s = .next u ∧ Accepts s t u := by
  obtain ⟨i, hd, ha⟩ | ⟨hf, ha⟩ | ⟨hf, r, -, ha⟩ := accept_cases t s
  · rw [ha]
    exact exec_next_accepts hd
  · exact ⟨_, ha, .discarded hf⟩
  · exact ⟨_, ha, .refused hf (causeOf_ne_none r)⟩

/-- Every step answers a next state, one that `Steps` lists. -/
theorem step_next_steps (s : State) : ∃ u, step s = .next u ∧ Steps s u := by
  obtain ⟨hr, hs⟩ | ⟨hr, hp, hs⟩ | ⟨hr, hp, hv, t, ts, ht, hs⟩ | ⟨hr, hp, hw, hs⟩ := step_cases s
  · exact ⟨_, hs, .reset hr⟩
  · obtain he | ⟨w, rest, hp', hg, he⟩ := s.advanceInputs.engineStep_cases s.inputs
    · exact ⟨_, he ▸ hs, .holds hr hp⟩
    · exact ⟨_, he ▸ hs, .emits hr hp' hg⟩
  · have htake : s.advanceInputs.takeToken = s.accepting ts := by
      simp [State.takeToken, State.advanceInputs, State.accepting, ht]
    obtain ⟨u, hu, ha⟩ := accept_next_accepts t (s.accepting ts)
    exact ⟨u, by rw [hs, htake, hu], .accepts ⟨hr, hv, hp, ht⟩ ha⟩
  · exact ⟨_, hs, .waits hr hp hw⟩

theorem steps_of_step {s u : State} (h : step s = .next u) : Steps s u := by
  obtain ⟨v, hv, hs⟩ := step_next_steps s
  cases hv.symm.trans h
  exact hs

/-! ### What the acceptance leaves unchanged -/

theorem Accepts.tokens_eq {s u : State} {t : Token} (h : Accepts s t u) : u.tokens = s.tokens := by
  cases h with
  | discarded | refused => rfl
  | executed _ _ hx => cases hx <;> rfl

theorem Accepts.log_eq {s u : State} {t : Token} (h : Accepts s t u) : u.log = s.log := by
  cases h with
  | discarded | refused => rfl
  | executed _ _ hx => cases hx <;> rfl

theorem Accepts.pins_eq {s u : State} {t : Token} (h : Accepts s t u) : u.pins = s.pins := by
  cases h with
  | discarded | refused => rfl
  | executed _ _ hx => cases hx <;> rfl

theorem Executes.fault_eq {s u : State} {i : Instr} (h : Executes s i u) : u.fault = s.fault := by
  cases h <;> rfl

/-! ## The invariant -/

/-- The invariant speaks of the block and its observation, not of the host's tokens and the input lines. -/
theorem Inv.congr_environment {s : State} (h : Inv s) (ts : List Token) (us : List Inputs) (i : Inputs) :
    Inv { s with tokens := ts, upcoming := us, settled := i } :=
  ⟨h.causeAgrees, h.blankBeforeInit, h.undrivenBeforeInit, h.drivenAfterInit, h.pendingAllowed,
    h.pinsAgree, h.idleWhenFaulted⟩

theorem Inv.advanceInputs {s : State} (h : Inv s) : Inv s.advanceInputs :=
  h.congr_environment s.tokens s.upcoming.tail s.settled

theorem Inv.accepting {s : State} (h : Inv s) (ts : List Token) : Inv (s.accepting ts) :=
  h.congr_environment ts s.upcoming.tail s.settled

theorem Inv.initDone_of_link_pending {s : State} (h : Inv s) {e : LinkEvent}
    (he : WorkItem.link e ∈ s.pending) : s.initDone = true := by
  by_contra hi
  exact (h.undrivenBeforeInit (by simpa using hi)).2 e he

/-- After INIT an idle block has driven pins: `Drive` is not waiting any more (R134). -/
theorem Inv.driven_of_idle {s : State} (h : Inv s) (hp : s.pending = []) (hi : s.initDone = true) :
    s.pins.driven = true := by
  obtain hd | ⟨ws, hw⟩ := h.drivenAfterInit hi
  · exact hd
  · simp [hp] at hw

/-- After INIT the pins of an idle block are at rest (R32). -/
theorem Inv.resting_of_idle {s : State} (h : Inv s) (hp : s.pending = []) (hi : s.initDone = true) :
    s.pins.resting = true := by
  have hallowed := h.pendingAllowed
  simp only [hp, itemsAllowed, Bool.or_eq_true, beq_iff_eq] at hallowed
  obtain hz | hr := hallowed
  · have hdriven := h.driven_of_idle hp hi
    simp [hz] at hdriven
  · exact hr

/-! ### Each kind of step keeps the invariant -/

theorem inv_reset : Inv State.reset where
  causeAgrees := by decide
  blankBeforeInit _ := rfl
  undrivenBeforeInit _ := ⟨rfl, fun _ => List.not_mem_nil⟩
  drivenAfterInit := nofun
  pendingAllowed := rfl
  pinsAgree := rfl
  idleWhenFaulted := nofun

/-- Reset needs no invariant before it: it restores every piece of the block's state (R210). -/
theorem inv_takeReset (s : State) : Inv s.takeReset where
  causeAgrees := inv_reset.causeAgrees
  blankBeforeInit := inv_reset.blankBeforeInit
  undrivenBeforeInit := inv_reset.undrivenBeforeInit
  drivenAfterInit := inv_reset.drivenAfterInit
  pendingAllowed := inv_reset.pendingAllowed
  pinsAgree := by simp [pinsAfterEntry]
  idleWhenFaulted := inv_reset.idleWhenFaulted

theorem Inv.emit_link {s : State} (h : Inv s) {e : LinkEvent} {rest : List WorkItem}
    (hp : s.pending = .link e :: rest) : Inv (State.emit { s with pending := rest } (.link e)) := by
  have hi : s.initDone = true := h.initDone_of_link_pending (e := e) (by simp [hp])
  have hallowed := h.pendingAllowed
  simp only [hp, itemsAllowed, Bool.and_eq_true] at hallowed
  obtain ⟨he, hrest⟩ := hallowed
  exact {
    causeAgrees := h.causeAgrees
    blankBeforeInit := by simp [hi]
    undrivenBeforeInit := by simp [hi]
    drivenAfterInit := fun _ => .inl (Pins.driven_apply he)
    pendingAllowed := hrest
    pinsAgree := by simp [pinsAfterEntry, h.pinsAgree]
    idleWhenFaulted := fun hf => by simpa [hp] using h.idleWhenFaulted hf }

theorem Inv.emit_tx {s : State} (h : Inv s) {b : Byte} {rest : List WorkItem}
    (hp : s.pending = .tx b :: rest) : Inv (State.emit { s with pending := rest } (.tx b)) where
  causeAgrees := h.causeAgrees
  blankBeforeInit := h.blankBeforeInit
  undrivenBeforeInit hi := by
    obtain ⟨hpins, hlink⟩ := h.undrivenBeforeInit hi
    exact ⟨hpins, fun e he => hlink e (hp ▸ List.mem_cons_of_mem _ he)⟩
  drivenAfterInit hi := by
    obtain hd | ⟨ws, hw⟩ := h.drivenAfterInit hi
    · exact .inl hd
    · simp [hp] at hw
  pendingAllowed := by simpa [hp, itemsAllowed, pinsAfterItem] using h.pendingAllowed
  pinsAgree := by simp [pinsAfterEntry, h.pinsAgree]
  idleWhenFaulted hf := by simpa [hp] using h.idleWhenFaulted hf

theorem Inv.raise {s : State} (h : Inv s) (hp : s.pending = []) {c : Cause} (hc : c ≠ .none) :
    Inv (s.raise c) where
  causeAgrees := by simp [hc]
  blankBeforeInit := h.blankBeforeInit
  undrivenBeforeInit := h.undrivenBeforeInit
  drivenAfterInit := h.drivenAfterInit
  pendingAllowed := h.pendingAllowed
  pinsAgree := h.pinsAgree
  idleWhenFaulted _ := hp

/-- INIT lists `Drive` and then register writes, which undriven pins allow (R101, R134). -/
theorem Inv.afterInit {s : State} (h : Inv s) (hf : s.fault = false) (hi : s.initDone = false) :
    Inv { s with
      initDone := true
      pending := ([LinkEvent.drive] ++ linkEvents configWrites ++ flush s.buf).map WorkItem.link } where
  causeAgrees := h.causeAgrees
  blankBeforeInit := nofun
  undrivenBeforeInit := nofun
  drivenAfterInit _ := .inr ⟨_, rfl⟩
  pendingAllowed := by
    obtain ⟨hpins, -⟩ := h.undrivenBeforeInit hi
    change itemsAllowed s.pins
      ((.drive :: (linkEvents configWrites ++ linkEvents (rowWrites s.buf))).map .link) = true
    rw [hpins, ← linkEvents_append]
    exact itemsAllowed_drive_linkEvents _
  pinsAgree := h.pinsAgree
  idleWhenFaulted := by simp [hf]

/-- After INIT a command may write the buffer and list any register writes: they find the pins at rest. -/
theorem Inv.afterRegisterWrites {s : State} (h : Inv s) (hf : s.fault = false) (hp : s.pending = [])
    (hi : s.initDone = true) (buf : Rows) (ws : List ChipWrite) :
    Inv { s with buf := buf, pending := (linkEvents ws).map .link } where
  causeAgrees := h.causeAgrees
  blankBeforeInit := by simp [hi]
  undrivenBeforeInit := by simp [hi]
  drivenAfterInit _ := .inl (h.driven_of_idle hp hi)
  pendingAllowed := by
    obtain ⟨hcs, hclk, hdin⟩ := (Pins.resting_iff s.pins).1 (h.resting_of_idle hp hi)
    have hpins : s.pins = ⟨.high, .low, s.pins.din⟩ := by rw [← hcs, ← hclk]
    change itemsAllowed s.pins _ = true
    rw [hpins]
    exact itemsAllowed_linkEvents ws hdin
  pinsAgree := h.pinsAgree
  idleWhenFaulted := by simp [hf]

/-- Before and after INIT an idle block may list bytes to send: they do not touch the pins (R55). -/
theorem Inv.afterBytes {s : State} (h : Inv s) (hf : s.fault = false) (hp : s.pending = [])
    (bs : List Byte) : Inv { s with pending := bs.map .tx } where
  causeAgrees := h.causeAgrees
  blankBeforeInit := h.blankBeforeInit
  undrivenBeforeInit hi := ⟨(h.undrivenBeforeInit hi).1, fun e => by simp⟩
  drivenAfterInit hi := .inl (h.driven_of_idle hp hi)
  pendingAllowed := by
    have hallowed := h.pendingAllowed
    rw [hp] at hallowed
    rw [itemsAllowed_map_tx, hallowed]
  pinsAgree := h.pinsAgree
  idleWhenFaulted := by simp [hf]

theorem Executes.inv {s u : State} {i : Instr} (hx : Executes s i u) (h : Inv s) (hf : s.fault = false)
    (hp : s.pending = []) : Inv u := by
  cases hx with
  | init hi => exact h.afterInit hf hi
  | clear hi => exact h.afterRegisterWrites hf hp hi _ []
  | setPixel hi => exact h.afterRegisterWrites hf hp hi _ []
  | glyph hi sym => exact h.afterRegisterWrites hf hp hi _ (rowWrites (glyphRows sym))
  | sendFrame => exact h.afterBytes hf hp _

theorem Accepts.inv {s u : State} {t : Token} (ha : Accepts s t u) (h : Inv s) (hp : s.pending = []) :
    Inv u := by
  cases ha with
  | discarded => exact h
  | refused _ hc => exact h.raise hp hc
  | executed hf _ hx => exact hx.inv h hf hp

theorem Steps.inv {s u : State} (hs : Steps s u) (h : Inv s) : Inv u := by
  cases hs with
  | reset => exact inv_takeReset _
  | holds | waits => exact h.advanceInputs
  | @emits _ w rest hp =>
    cases w with
    | link e => exact h.advanceInputs.emit_link hp
    | tx b => exact h.advanceInputs.emit_tx hp
  | accepts ho ha => exact ha.inv (h.accepting _) ho.idle

/-! ## SETPIXEL and the pixels (R21, R113) -/

/-- Bit `c` of a row byte after its bit `col` was written. -/
theorem getElem_setBit (row : Byte) (col : Nat) (on : Bool) {c : Nat} (hc : c < 8) :
    (setBit row col on)[c] = if c = col then on else row[c] := by
  obtain hlt | rfl | hgt := Nat.lt_trichotomy c col
  · simp [setBit, hlt, hlt.ne]
  · cases on <;> simp [setBit]
  · simp [setBit, hgt.ne', hgt.not_gt, Nat.sub_ne_zero_of_lt hgt]

theorem pixel_setPixel (buf : Rows) (col row : Byte) (on : Bool) (c r : Fin 8) :
    pixel (setPixel buf col row on) c r =
      if (c : Nat) = col.toNat ∧ (r : Nat) = row.toNat then on else pixel buf c r := by
  by_cases h : col.toNat < 8 ∧ row.toNat < 8
  case neg =>
    have hother : ¬((c : Nat) = col.toNat ∧ (r : Nat) = row.toNat) := by omega
    simp [setPixel, h, hother]
  case pos =>
    by_cases hrow : (r : Nat) = row.toNat
    · simp [setPixel, pixel, h, hrow, getElem_setBit]
    · simp [setPixel, pixel, h, hrow, Ne.symm hrow]

theorem exec_setPixel {s : State} (hf : s.fault = false) (hi : s.initDone = true) (col row : Byte)
    (on : Bool) :
    exec (.setPixel col row on) s =
      .next { s with buf := setPixel s.buf col row on, pending := [] } := by
  simp [exec, execSetPixel, State.checkInitialized, hi, State.conclude_done hf]

end Sys2Proof.Machine

/-! ## The statements -/

namespace Sys2Proof.Proofs

open Sys2Proof.Machine

/-- Settles O48: an invariant step by step, one lemma for each kind of step (`Steps.inv`). -/
theorem everyStepKeepsTheInvariant : Obligations.EveryStepKeepsTheInvariant :=
  fun _ _ h hs => (steps_of_step hs).inv h

/-- Settles O11, by the cases of a step without reset. -/
theorem tokenIsTakenExactlyAtTheHandshake : Obligations.TokenIsTakenExactlyAtTheHandshake := by
  intro s hr
  obtain ⟨u, hu, hs⟩ := step_next_steps s
  refine ⟨u, hu, ?_⟩
  cases hs with
  | reset hr' => simp [hr] at hr'
  | holds _ hp => simp [hp]
  | emits _ hp => simp [hp]
  | accepts ho ha =>
    rw [ha.tokens_eq, if_pos ⟨ho.valid, ho.idle⟩, ho.onPort]
    rfl
  | waits _ _ hw =>
    obtain hv | ht := hw
    · simp [hv]
    · simp [ht]

/-- Settles O13: an engine step moves the head of `pending` to the end of `log`, and an acceptance touches
neither `log` nor the pins. -/
theorem outputsLeaveInWorkListOrder : Obligations.OutputsLeaveInWorkListOrder := by
  intro s u hr hs
  cases steps_of_step hs with
  | reset hr' => simp [hr] at hr'
  | holds _ hp => exact ⟨fun _ => by simp, fun hp' => absurd hp' hp⟩
  | emits _ hp => exact ⟨fun _ => by simp [hp], fun hp' => by simp [hp] at hp'⟩
  | accepts ho ha => exact ⟨fun hp => absurd ho.idle hp, fun _ => ⟨ha.log_eq, ha.pins_eq⟩⟩
  | waits _ hp => exact ⟨fun hp' => absurd hp hp', fun _ => ⟨rfl, rfl⟩⟩

/-- Settles O26, by the pixels of `setPixel`. -/
theorem setPixelChangesOnlyThatPixel : Obligations.SetPixelChangesOnlyThatPixel :=
  fun s col row on hf hi => ⟨_, exec_setPixel hf hi col row on, pixel_setPixel s.buf col row on⟩

/-- Settles O34, by the cases of a step and of the command it executes. -/
theorem bufferIsWrittenOnlyByThreeCommands : Obligations.BufferIsWrittenOnlyByThreeCommands := by
  intro s u hs hbuf
  cases steps_of_step hs with
  | reset hr => exact .inl hr
  | holds | emits | waits => exact absurd rfl hbuf
  | accepts ho ha =>
    cases ha with
    | discarded | refused => exact absurd rfl hbuf
    | executed hf hd hx =>
      refine .inr ⟨_, _, _, ho, hd, hf, ?_⟩
      cases hx with
      | init | sendFrame => exact absurd rfl hbuf
      | clear hi => exact ⟨hi, .inl rfl⟩
      | setPixel hi col row on => exact ⟨hi, .inr (.inl ⟨col, row, on, rfl⟩)⟩
      | glyph hi sym => exact ⟨hi, .inr (.inr ⟨sym, rfl⟩)⟩

/-- Settles O35, by the cases of a step and of the command it executes. -/
theorem initDoneIsSetByInitAndClearedByReset : Obligations.InitDoneIsSetByInitAndClearedByReset := by
  intro s u hs hinit
  cases steps_of_step hs with
  | reset hr => exact .inl ⟨hr, rfl⟩
  | holds | emits | waits => exact absurd rfl hinit
  | accepts ho ha =>
    cases ha with
    | discarded | refused => exact absurd rfl hinit
    | executed hf hd hx =>
      cases hx with
      | init => exact .inr ⟨rfl, _, _, ho, hd, hf⟩
      | clear | setPixel | glyph | sendFrame => exact absurd rfl hinit

/-- Settles O36: of all a step can do, only reset and a refusal change `fault`. -/
theorem faultIsSetByARefusalAndClearedByReset : Obligations.FaultIsSetByARefusalAndClearedByReset := by
  intro s u hs hfault
  cases steps_of_step hs with
  | reset hr => exact .inl ⟨hr, rfl⟩
  | holds | emits | waits => exact absurd rfl hfault
  | accepts ho ha =>
    cases ha with
    | discarded => exact absurd rfl hfault
    | refused _ hc => exact .inr ⟨rfl, hc, _, _, ho⟩
    | executed _ _ hx => exact absurd hx.fault_eq hfault

/-- Settles O42: the last register write alone decides where the pins rest. -/
theorem pinsRestAtTheLastDataBit : Obligations.PinsRestAtTheLastDataBit := by
  refine ⟨fun p => ⟨rfl, rfl, rfl, rfl, rfl, rfl, rfl⟩, fun ws a d => ?_⟩
  have hlast : linkEvents [⟨a, d⟩] = ChipWrite.events ⟨a, d⟩ := by simp [linkEvents_cons]
  rw [List.foldl_cons, linkEvents_append, List.foldl_append, hlast, ChipWrite.foldl_apply_events]
  rfl

/-- Settles O17: the fields of `State.reset` as they are written. -/
theorem resetValues : Obligations.ResetValues :=
  ⟨by decide, rfl, rfl, rfl, rfl, rfl, rfl, rfl, rfl, rfl, rfl⟩

/-- Settles O18: each bit of STATUS is looked up in the concatenation of its fields. -/
theorem statusPortFields : Obligations.StatusPortFields := by
  refine ⟨fun s => ⟨?_, ?_, ?_, ?_, ?_, ?_, s.busy_eq_true_iff⟩, rfl, rfl, rfl, rfl, rfl, rfl, rfl⟩
  case refine_5 =>
    apply BitVec.eq_of_getLsbD_eq
    intro k hk
    simp only [State.status, BitVec.getLsbD_extractLsb', BitVec.getLsbD_append]
    interval_cases k <;> simp
  all_goals
    simp only [State.status, BitVec.getLsbD_append]
    simp

/-- Settles O47. -/
theorem invariantHoldsAtReset : Obligations.InvariantHoldsAtReset := inv_reset

/-- Settles O49, from the clauses of the invariant on pins and pending items. -/
theorem idlePinsAreUndrivenOrAtRest : Obligations.IdlePinsAreUndrivenOrAtRest :=
  fun s h hp =>
    ⟨fun hi => (h.undrivenBeforeInit hi).1,
      fun hi => (Pins.resting_iff s.pins).1 (h.resting_of_idle hp hi)⟩

end Sys2Proof.Proofs

/-! # Proofs of family 20_memory.md

First what a command and a run of engine steps answer, then the bits of a register write, the writes read
back off a link trace and those a command sends, and last the statements settled from them. -/

namespace Sys2Proof.Machine

/-! ## What a command and a run of steps answer -/

/-- A faulted block discards every command (R187). -/
theorem exec_faulted {s : State} (hf : s.fault = true) (i : Instr) : exec i s = .next s := by
  obtain ⟨-, hx⟩ | ⟨hf', -⟩ | ⟨hf', -⟩ | ⟨hf', -⟩ | ⟨hf', -⟩ | ⟨hf', -⟩ | ⟨hf', -⟩ := exec_cases i s
  case inl => exact hx
  all_goals simp [hf] at hf'

/-- Inversion of a command that answers `u`: it was discarded, refused or executed (R180). -/
theorem exec_next_inv {i : Instr} {s u : State} (h : exec i s = .next u) :
    u = s ∨ (∃ c, u = s.raise c) ∨ (s.fault = false ∧ Executes s i u) := by
  obtain ⟨hf, hx⟩ | ⟨hf, c, -, hx⟩ | ⟨hf, hi, rfl, hx⟩ | ⟨hf, hi, rfl, hx⟩ |
    ⟨hf, hi, col, row, on, rfl, hx⟩ | ⟨hf, hi, sym, rfl, hx⟩ | ⟨hf, o, c, rfl, hc, hx⟩ := exec_cases i s
  all_goals cases hx.symm.trans h
  · exact .inl rfl
  · exact .inr (.inl ⟨c, rfl⟩)
  · exact .inr (.inr ⟨hf, .init hi⟩)
  · exact .inr (.inr ⟨hf, .clear hi⟩)
  · exact .inr (.inr ⟨hf, .setPixel hi col row on⟩)
  · exact .inr (.inr ⟨hf, .glyph hi sym⟩)
  · exact .inr (.inr ⟨hf, .sendFrame hc⟩)

/-- A command that changes nothing once it was executed changes nothing after any of its answers: a
discarded one meets the same state, a refused one a faulted block. -/
theorem exec_idempotent {i : Instr}
    (hexec : ∀ s u : State, s.fault = false → Executes s i u → exec i u = .next u)
    {s u : State} (h : exec i s = .next u) : exec i u = .next u := by
  obtain rfl | ⟨c, rfl⟩ | ⟨hf, hx⟩ := exec_next_inv h
  · exact h
  · exact exec_faulted rfl i
  · exact hexec s u hf hx

theorem exec_clear {s : State} (hf : s.fault = false) (hi : s.initDone = true) :
    exec .clear s = .next { s with buf := blankRows, pending := [] } := by
  simp [exec, execClear, State.checkInitialized, hi, State.conclude_done hf]

theorem setBit_setBit (row : Byte) (col : Nat) (on : Bool) :
    setBit (setBit row col on) col on = setBit row col on := by
  ext c hc
  rw [getElem_setBit _ _ _ hc, getElem_setBit _ _ _ hc]
  split <;> rfl

theorem setPixel_setPixel (buf : Rows) (col row : Byte) (on : Bool) :
    setPixel (setPixel buf col row on) col row on = setPixel buf col row on := by
  by_cases h : col.toNat < 8 ∧ row.toNat < 8
  · simp [setPixel, h, setBit_setBit]
  · simp [setPixel, h]

/-- A busy block whose awaited gate is open emits the head of its work list (R220). -/
theorem step_emits {s : State} {w : WorkItem} {rest : List WorkItem} (hp : s.pending = w :: rest)
    (hr : s.inputs.reset = false) (hg : s.inputs.ready w = true) :
    step s = .next (State.emit { s.advanceInputs with pending := rest } w) := by
  have hengine := State.engineStep_emits (s := s.advanceInputs) hp hg
  simp [step, hr, (State.busy_eq_true_iff s).2 (by simp [hp]), hengine]

theorem run_zero (s : State) : Host.Core.run core 0 s = .next s := rfl

theorem run_succ_of_step {s u : State} (h : step s = .next u) (n : Nat) :
    Host.Core.run core (n + 1) s = Host.Core.run core n u := by
  have hstep : core.step s = .next u := h
  simp only [Host.Core.run, hstep]

/-- As long as each item finds its gate open, a run emits the work list, one item a step (R60, R220). -/
theorem run_drains {s : State} {ws : List WorkItem} (hp : s.pending = ws)
    (hopen : ∀ (k : Nat) (h : k < ws.length),
      (s.inputsAt k).reset = false ∧ (s.inputsAt k).ready ws[k] = true) :
    Host.Core.run core ws.length s = .next
      { s with
        pending := []
        pins := ws.foldl pinsAfterItem s.pins
        log := s.log ++ ws.map .emitted
        upcoming := s.upcoming.drop ws.length } := by
  induction ws generalizing s with
  | nil =>
    have hs : { s with pending := [] } = s := by rw [← hp]
    simpa using (run_zero s).trans (congrArg Host.Outcome.next hs.symm)
  | cons w rest ih =>
    obtain ⟨hr, hg⟩ := hopen 0 (by simp)
    rw [State.inputsAt_zero] at hr hg
    have hrest : ∀ (k : Nat) (h : k < rest.length),
        (s.advanceInputs.inputsAt k).reset = false ∧
          (s.advanceInputs.inputsAt k).ready rest[k] = true := by
      intro k h
      rw [State.inputsAt_advanceInputs]
      exact hopen (k + 1) (by simpa using h)
    have hrun := ih (s := State.emit { s.advanceInputs with pending := rest } w) rfl hrest
    refine (run_succ_of_step (step_emits hp hr hg) rest.length).trans (hrun.trans ?_)
    simp [State.emit, State.advanceInputs]

/-! ## The bits of a register write (R53, R132, R133) -/

/-- The bits of a byte in shift order, the most significant one first (R53). -/
def bitsOfByte (b : Byte) : List Bool :=
  [b.getLsbD 7, b.getLsbD 6, b.getLsbD 5, b.getLsbD 4,
    b.getLsbD 3, b.getLsbD 2, b.getLsbD 1, b.getLsbD 0]

/-- SHIFT16 of address and data shifts the bits of the address and then those of the data (R132, R133). -/
theorem shift16_append (a d : Byte) :
    shift16 (a ++ d) = (bitsOfByte a ++ bitsOfByte d).flatMap shiftBit := by
  have hbits : shiftOrder.map (a ++ d).getLsbD = bitsOfByte a ++ bitsOfByte d := by
    simp only [shiftOrder, List.map, BitVec.getLsbD_append]
    rfl
  rw [shift16_eq_flatMap, hbits]

theorem ChipWrite.events_eq (w : ChipWrite) :
    w.events = .setCS false ::
      ((bitsOfByte w.addr ++ bitsOfByte w.data).flatMap shiftBit ++ [.setCS true]) := by
  rw [ChipWrite.events, shift16_append]
  rfl

/-! ## Reading register writes back off a link trace (R137) -/

theorem byteOfBits_append_singleton (bs : List Bool) (b : Bool) :
    byteOfBits (bs ++ [b]) = (byteOfBits bs <<< 1) ||| (BitVec.ofBool b).zeroExtend 8 := by
  simp [byteOfBits]

/-- Bit `k` of the byte of a list of bits is bit `k` of the list, counted from its end. -/
theorem getLsbD_byteOfBits (bs : List Bool) {k : Nat} (hk : k < 8) :
    (byteOfBits bs).getLsbD k = bs.reverse[k]?.getD false := by
  induction bs using List.reverseRecOn generalizing k with
  | nil => simp [byteOfBits]
  | append_singleton bs b ih =>
    rw [byteOfBits_append_singleton]
    cases k with
    | zero => simp
    | succ k =>
      have hlt : k < 8 := by omega
      have hbit := ih hlt
      rw [BitVec.getLsbD_eq_getElem hlt] at hbit
      simp [hbit, hk]

theorem byteOfBits_bitsOfByte (b : Byte) : byteOfBits (bitsOfByte b) = b := by
  apply BitVec.eq_of_getLsbD_eq
  intro k hk
  rw [getLsbD_byteOfBits _ hk]
  interval_cases k <;> rfl

@[simp] theorem Pin.bit_level (l : Bool) : (Pin.level l).bit = some l := by
  cases l <;> rfl

theorem sampledBits_map_level (bits : List Bool) : sampledBits (bits.map Pin.level) = some bits := by
  induction bits with
  | nil => rfl
  | cons b bits ih => simp [sampledBits, ih]

/-- Sampled levels of driven bits are a write if they are exactly 16, and nothing otherwise (R137). -/
theorem writeOfSamples_map_level (bits : List Bool) :
    writeOfSamples (bits.map Pin.level) =
      if bits.length = 16 then some ⟨byteOfBits (bits.take 8), byteOfBits (bits.drop 8)⟩ else none := by
  rw [writeOfSamples, sampledBits_map_level]

theorem writeOfSamples_bitsOfByte (a d : Byte) :
    writeOfSamples ((bitsOfByte a ++ bitsOfByte d).map Pin.level) = some ⟨a, d⟩ := by
  have htake : (bitsOfByte a ++ bitsOfByte d).take 8 = bitsOfByte a := rfl
  have hdrop : (bitsOfByte a ++ bitsOfByte d).drop 8 = bitsOfByte d := rfl
  rw [writeOfSamples_map_level, htake, hdrop, byteOfBits_bitsOfByte, byteOfBits_bitsOfByte]
  rfl

/-- `Drive` outputs nothing and ends any list of samples, whatever the pins were. -/
@[simp] theorem scanWrites_drive (p : Pins) (samples : Option (List Pin)) (es : List LinkEvent) :
    scanWrites p samples (.drive :: es) = scanWrites ⟨.high, .low, .low⟩ none es := rfl

/-- Bits shifted while CS is low output nothing and are appended to the samples (R137). -/
theorem scanWrites_shiftBits {p : Pins} (hcs : p.cs = .low) (bits : List Bool) (samples : List Pin)
    (es : List LinkEvent) :
    scanWrites p (some samples) (bits.flatMap shiftBit ++ es) =
      scanWrites ((bits.flatMap shiftBit).foldl Pins.apply p)
        (some (samples ++ bits.map Pin.level)) es := by
  induction bits generalizing p samples with
  | nil => simp
  | cons b bits ih =>
    have hbit : ∀ es, scanWrites p (some samples) (shiftBit b ++ es) =
        scanWrites ⟨p.cs, .low, .level b⟩ (some (samples ++ [.level b])) es := by
      intro es
      simp [shiftBit, scanWrites, completedWrite, samplesAfter, Pins.apply, hcs]
    have hpins : (shiftBit b).foldl Pins.apply p = ⟨p.cs, .low, .level b⟩ := rfl
    rw [List.flatMap_cons, List.append_assoc, hbit, List.foldl_append, hpins,
      ih (p := ⟨p.cs, .low, .level b⟩) hcs]
    simp

/-- The events of a register write are read back as this write, whatever was sampled before it (R137). -/
theorem scanWrites_events_append (w : ChipWrite) (p : Pins) (samples : Option (List Pin))
    (es : List LinkEvent) :
    scanWrites p samples (w.events ++ es) =
      w :: scanWrites (w.events.foldl Pins.apply p) none es := by
  have hstart : scanWrites p samples (w.events ++ es) = scanWrites (p.apply (.setCS false)) (some [])
      ((bitsOfByte w.addr ++ bitsOfByte w.data).flatMap shiftBit ++ .setCS true :: es) := by
    simp [ChipWrite.events_eq, scanWrites, completedWrite, samplesAfter]
  rw [hstart, scanWrites_shiftBits rfl, List.nil_append, scanWrites]
  simp only [completedWrite, samplesAfter, if_true, Option.bind_some, writeOfSamples_bitsOfByte,
    ChipWrite.events_eq w, List.foldl_cons, List.foldl_append, List.foldl_nil, Option.toList_some,
    List.singleton_append]

/-- The events of a list of register writes are read back as this list (R137). -/
@[simp] theorem scanWrites_linkEvents (ws : List ChipWrite) (p : Pins) (samples : Option (List Pin)) :
    scanWrites p samples (linkEvents ws) = ws := by
  induction ws generalizing p samples with
  | nil => rfl
  | cons w ws ih => rw [linkEvents_cons, scanWrites_events_append, ih]

@[simp] theorem writes_drive_nil : writes [.drive] = [] := rfl

@[simp] theorem writes_drive_linkEvents (ws : List ChipWrite) : writes (.drive :: linkEvents ws) = ws :=
  scanWrites_linkEvents ws _ _

/-- A second `Drive` adds nothing to the writes of what follows it. -/
@[simp] theorem writes_drive_drive (es : List LinkEvent) :
    writes (.drive :: .drive :: es) = writes (.drive :: es) := rfl

/-! ## The register writes of a command (R51, R139, R198) -/

/-- The link events among work items, as they will stand in the link trace. -/
def linkEventsOf (ws : List WorkItem) : List LinkEvent :=
  ws.filterMap fun x => (Observed.emitted x).linkEvent

@[simp] theorem linkEventsOf_nil : linkEventsOf [] = [] := rfl

@[simp] theorem linkEventsOf_map_link (es : List LinkEvent) : linkEventsOf (es.map .link) = es := by
  simp [linkEventsOf, Observed.linkEvent]

@[simp] theorem linkEventsOf_map_tx (bs : List Byte) : linkEventsOf (bs.map .tx) = [] := by
  simp [linkEventsOf, Observed.linkEvent]

theorem addr_of_mem_rowWrites {buf : Rows} {w : ChipWrite} (h : w ∈ rowWrites buf) :
    w.addr ∈ [0x01#8, 0x02#8, 0x03#8, 0x04#8, 0x05#8, 0x06#8, 0x07#8, 0x08#8] :=
  List.mem_map_of_mem (f := ChipWrite.addr) h

/-- An executed command sends register writes of a buffer's rows and of INIT's configuration only. -/
theorem Executes.mem_writes {s u : State} {i : Instr} (hx : Executes s i u) {w : ChipWrite}
    (hw : w ∈ writes (.drive :: linkEventsOf u.pending)) :
    (∃ buf, w ∈ rowWrites buf) ∨ w ∈ configWrites := by
  cases hx with
  | init =>
    have hevents : [LinkEvent.drive] ++ linkEvents configWrites ++ flush s.buf =
        .drive :: linkEvents (configWrites ++ rowWrites s.buf) := by
      rw [linkEvents_append]
      rfl
    simp only [hevents, linkEventsOf_map_link, writes_drive_drive, writes_drive_linkEvents] at hw
    exact (List.mem_append.1 hw).elim .inr fun h => .inl ⟨_, h⟩
  | glyph _ sym => exact .inl ⟨glyphRows sym, by simpa [flush] using hw⟩
  | clear | setPixel | sendFrame => simp at hw

end Sys2Proof.Machine

/-! ## The statements -/

namespace Sys2Proof.Proofs

open Sys2Proof.Machine

/-- Settles O33: executed again, CLEAR finds a blank buffer and SETPIXEL the pixel as it leaves it. -/
theorem clearAndSetPixelAreIdempotent : Obligations.ClearAndSetPixelAreIdempotent := by
  constructor
  · intro s u h
    refine exec_idempotent (fun s u hf hx => ?_) h
    cases hx with
    | clear hi => exact exec_clear hf hi
  · intro s u col row on h
    refine exec_idempotent (fun s u hf hx => ?_) h
    cases hx with
    | setPixel hi =>
      have hagain := exec_setPixel (s := { s with buf := setPixel s.buf col row on, pending := [] })
        hf hi col row on
      simpa [setPixel_setPixel] using hagain

/-- Settles O37, from the writes each executed command sends; a command that is not executed sends none. -/
theorem chipAddressesAreTheThirteenUsedOnes : Obligations.ChipAddressesAreTheThirteenUsedOnes := by
  intro i s u hp h w hw
  obtain rfl | ⟨c, rfl⟩ | ⟨-, hx⟩ := exec_next_inv h
  · simp [hp] at hw
  · simp [hp] at hw
  · obtain ⟨buf, hrow⟩ | hconfig := hx.mem_writes hw
    · exact .inl (addr_of_mem_rowWrites hrow)
    · exact .inr hconfig

/-- Settles O44, by induction over the work list (`run_drains`). -/
theorem workListDrains : Obligations.WorkListDrains :=
  fun _ hopen => run_drains rfl hopen

/-- Settles O38, from the bits of address and data in shift order. -/
theorem registerWriteEvents : Obligations.RegisterWriteEvents :=
  fun a d => ChipWrite.events_eq ⟨a, d⟩

end Sys2Proof.Proofs

/-! # Proofs of family 30_encoding.md

First the words of the encoder and their fields, then the round trip from a token back to its command word,
then what a step of an idle block and the commands of the pixel buffer answer, and last the statements
settled from them. -/

namespace Sys2Proof

/-! ## From a command to its token and back (R72 to R74, R79) -/

theorem decode_encode (i : Instr) : decode (encode i) = .ok i := by
  cases i with
  | init => exact Laws.RoundTrip.init
  | clear => exact Laws.RoundTrip.clear
  | setPixel col row on => exact Laws.RoundTrip.setPixel col row on
  | glyph sym => exact Laws.RoundTrip.glyph sym
  | sendFrame o => exact Laws.RoundTrip.sendFrame o

/-- Appending a field below a word shifts the word up by the width of the field. -/
theorem toNat_append_field {m n : Nat} (x : BitVec m) (y : BitVec n) :
    (x ++ y).toNat = x.toNat * 2 ^ n + y.toNat := by
  rw [BitVec.toNat_append, ← Nat.shiftLeft_add_eq_or_of_lt y.isLt, Nat.shiftLeft_eq]

/-- The word of SETPIXEL as a number: row, column, value and opcode at bits 16, 8, 4 and 0 (R76). -/
theorem encode_setPixel_cmd_toNat (col row : Byte) (on : Bool) :
    (encode (.setPixel col row on)).cmd.toNat =
      row.toNat * 0x10000 + col.toNat * 0x100 + if on then 0x13 else 0x03 := by
  simp only [encode, toNat_append_field, BitVec.toNat_ofBool, BitVec.toNat_ofNat]
  cases on <;> simp <;> omega

/-! ## From a token to its command and back (R71, R75, R79) -/

/-- The opcode field of a command word (R75). -/
def Opcode.code : Opcode → BitVec 4
  | .init => 0x1#4
  | .clear => 0x2#4
  | .setPixel => 0x3#4
  | .glyph => 0x4#4
  | .sendFrame => 0x5#4

theorem opcodeField_of_opcodeOf {cmd : Word} {op : Opcode} (h : opcodeOf cmd = some op) :
    cmd.extractLsb' 0 4 = op.code := by
  simp only [opcodeOf] at h
  split at h
  case h_6 => cases h
  all_goals
    cases h
    apply BitVec.eq_of_toNat_eq
    assumption

/-- A field whose bits are all reserved is zero in a word that the decoder accepts (R184). -/
theorem reservedField_eq_zero {cmd mask : Word} (h : cmd &&& mask = 0#32) {start len : Nat}
    (hmask : mask.extractLsb' start len = BitVec.allOnes len) : cmd.extractLsb' start len = 0#len := by
  have hand := BitVec.extractLsb'_and (x := cmd) (y := mask) (start := start) (len := len)
  rw [h, hmask, BitVec.and_allOnes, BitVec.extractLsb'_zero] at hand
  exact hand.symm

/-- A one-bit field is its bit. -/
theorem ofBool_getLsbD_eq_extractLsb' {w : Nat} (x : BitVec w) (k : Nat) :
    BitVec.ofBool (x.getLsbD k) = x.extractLsb' k 1 := by
  apply BitVec.eq_of_getLsbD_eq
  intro i hi
  obtain rfl : i = 0 := by omega
  simp

/-- Format N (R72): the opcode field and 28 reserved bits. -/
theorem append_opcode_of_formatN {cmd : Word} {code : BitVec 4} (hop : cmd.extractLsb' 0 4 = code)
    (hr : cmd.extractLsb' 4 28 = 0#28) : 0#28 ++ code = cmd := by
  rw [← hr, ← hop]
  simp only [BitVec.extractLsb'_append_extractLsb'_eq_extractLsb']
  exact BitVec.extractLsb'_eq_self

/-- The command word of an accepted token is the word of the command it decodes to (R71 to R76). -/
theorem encode_assembleOperands_cmd {t : Token} {op : Opcode} (hop : opcodeOf t.cmd = some op)
    (hr : t.cmd &&& reservedMask op = 0#32) : (encode (assembleOperands t op)).cmd = t.cmd := by
  cases op with
  | init | clear | sendFrame =>
    exact append_opcode_of_formatN (opcodeField_of_opcodeOf hop) (reservedField_eq_zero hr rfl)
  | setPixel =>
    have hcode : t.cmd.extractLsb' 0 4 = 0x3#4 := opcodeField_of_opcodeOf hop
    have hhigh : t.cmd.extractLsb' 24 8 = 0#8 := reservedField_eq_zero hr rfl
    have hmid : t.cmd.extractLsb' 5 3 = 0#3 := reservedField_eq_zero hr rfl
    simp only [assembleOperands, encode, ofBool_getLsbD_eq_extractLsb']
    rw [← hhigh, ← hmid, ← hcode]
    simp only [BitVec.extractLsb'_append_extractLsb'_eq_extractLsb']
    exact BitVec.extractLsb'_eq_self
  | glyph =>
    have hcode : t.cmd.extractLsb' 0 4 = 0x4#4 := opcodeField_of_opcodeOf hop
    have hhigh : t.cmd.extractLsb' 16 16 = 0#16 := reservedField_eq_zero hr rfl
    have hmid : t.cmd.extractLsb' 4 4 = 0#4 := reservedField_eq_zero hr rfl
    simp only [assembleOperands, encode]
    rw [← hhigh, ← hmid, ← hcode]
    simp only [BitVec.extractLsb'_append_extractLsb'_eq_extractLsb']
    exact BitVec.extractLsb'_eq_self

theorem OperandBlock.toBits_ofBits (v : BitVec 104) : (OperandBlock.ofBits v).toBits = v := by
  simp only [OperandBlock.toBits, OperandBlock.ofBits, ofBool_getLsbD_eq_extractLsb',
    BitVec.extractLsb'_append_extractLsb'_eq_extractLsb']
  exact BitVec.extractLsb'_eq_self

/-- Inversion of an accepted token: its opcode is legal, no reserved bit is 1, and the command is assembled
from its fields (R75, R180). -/
theorem decode_ok_inv {t : Token} {i : Instr} (h : decode t = .ok i) :
    ∃ op, opcodeOf t.cmd = some op ∧ t.cmd &&& reservedMask op = 0#32 ∧ i = assembleOperands t op := by
  obtain ⟨-, hd⟩ | ⟨op, -, -, hd⟩ | ⟨op, hop, hr, hd⟩ := decode_cases t
  all_goals cases hd.symm.trans h
  exact ⟨op, hop, hr, rfl⟩

end Sys2Proof

namespace Sys2Proof.Machine

/-! ## What an idle block answers -/

/-- A token offered to an idle block is accepted (R70). -/
theorem step_of_offers {s : State} {t : Token} {ts : List Token} (ho : s.Offers t ts) :
    step s = accept t (s.accepting ts) := by
  have htake : s.advanceInputs.takeToken = s.accepting ts := by
    simp [State.takeToken, State.advanceInputs, State.accepting, ho.onPort]
  simp [step, State.busy, State.acceptable, State.cmdReady, ho.noReset, ho.valid, ho.idle, ho.onPort, htake]

theorem accept_of_decode_ok {t : Token} {i : Instr} (hd : decode t = .ok i) (s : State) :
    accept t s = exec i s := by
  simp [accept, hd]

/-- An idle block with no token to accept waits (R70, R212). -/
theorem step_waits {s : State} (hr : s.inputs.reset = false) (hp : s.pending = [])
    (hw : s.inputs.cmdValid = false ∨ s.tokens = []) : step s = .next s.advanceInputs := by
  obtain ⟨hr', -⟩ | ⟨-, hp', -⟩ | ⟨-, -, hv, t, ts, ht, -⟩ | ⟨-, -, -, hs⟩ := step_cases s
  · simp [hr] at hr'
  · exact absurd hp hp'
  · simp [hv, ht] at hw
  · exact hs

/-! ## SETPIXEL and GLYPH (R113, R117) -/

theorem setPixel_of_inRange (buf : Rows) {col row : Byte} (on : Bool)
    (h : col.toNat < 8 ∧ row.toNat < 8) :
    setPixel buf col row on = buf.set row.toNat (setBit buf[row.toNat] col.toNat on) h.2 :=
  dif_pos h

theorem setPixel_of_outOfRange (buf : Rows) {col row : Byte} (on : Bool)
    (h : ¬(col.toNat < 8 ∧ row.toNat < 8)) : setPixel buf col row on = buf :=
  dif_neg h

theorem exec_glyph {s : State} (hf : s.fault = false) (hi : s.initDone = true) (sym : Byte) :
    exec (.glyph sym) s = .next { s with
      buf := glyphRows sym, pending := (flush (glyphRows sym)).map .link } := by
  simp [exec, execGlyph, State.checkInitialized, hi, State.conclude_done hf]

@[simp] theorem glyphRows_D : glyphRows 0x44#8 = Config.glyphD := rfl

@[simp] theorem glyphRows_R : glyphRows 0x52#8 = Config.glyphR := rfl

@[simp] theorem glyphRows_P : glyphRows 0x50#8 = Config.glyphP := rfl

/-- The glyph table is closed at three symbols: any other leaves a blank buffer (R8, R117). -/
theorem glyphRows_unknown {sym : Byte} (hD : sym ≠ 0x44#8) (hR : sym ≠ 0x52#8) (hP : sym ≠ 0x50#8) :
    glyphRows sym = blankRows := by
  simp [glyphRows, glyphRead, hD, hR, hP]

theorem getElem_blankRows (r : Fin 8) : blankRows[r] = 0x00#8 := by
  simp [blankRows]

end Sys2Proof.Machine

/-! ## The statements -/

namespace Sys2Proof.Proofs

open Sys2Proof.Machine

/-- Settles O1, by the constructors of the command. -/
theorem decodeInvertsEncode : Obligations.DecodeInvertsEncode := decode_encode

/-- Settles O2: a word is the append of its fields, and the reserved ones of an accepted word are zero. -/
theorem decodedTokenIsItsEncoding : Obligations.DecodedTokenIsItsEncoding := by
  intro t i h
  obtain ⟨op, hop, hr, rfl⟩ := decode_ok_inv h
  have hcmd := encode_assembleOperands_cmd hop hr
  refine ⟨hcmd, fun o ho => ?_⟩
  cases op with
  | init | clear | setPixel | glyph => cases ho
  | sendFrame => exact congrArg₂ Token.mk hcmd (OperandBlock.toBits_ofBits t.opnd)

/-- Settles O5, by the opcode of the decoded token. -/
theorem operandsAreTheFieldsOfTheToken : Obligations.OperandsAreTheFieldsOfTheToken := by
  refine ⟨fun t col row on h => ?_, fun t sym h => ?_, fun t o h => ?_⟩
  all_goals
    obtain ⟨op, -, -, hi⟩ := decode_ok_inv h
    cases op <;> cases hi
  · exact ⟨rfl, rfl, rfl⟩
  · rfl
  · exact ⟨rfl, rfl, rfl, rfl, rfl, rfl, rfl⟩

/-- Settles O6: each example token is the encoding of the command beside it. -/
theorem exampleWordsDecode : Obligations.ExampleWordsDecode :=
  ⟨decode_encode .init, decode_encode .clear, decode_encode (.setPixel 3#8 5#8 true),
    decode_encode (.setPixel 7#8 0#8 false), decode_encode (.setPixel 8#8 0#8 true),
    decode_encode (.glyph 0x44#8), decode_encode (.glyph 0x52#8), decode_encode (.glyph 0x50#8),
    decode_encode (.sendFrame ⟨0x3FC00000#32, 0x00000000#32, 0xFFFFFFD6#32, true, 0b01#2, 0b00#2, 0b000#3⟩)⟩

/-- Settles O7, from the word of SETPIXEL as a number. -/
theorem pseudoCommandWords : Obligations.PseudoCommandWords :=
  ⟨fun col row => ⟨encode_setPixel_cmd_toNat col row true, encode_setPixel_cmd_toNat col row false⟩, rfl⟩

/-- Settles O8. -/
theorem stepRunsTheDecodedCommand : Obligations.StepRunsTheDecodedCommand :=
  fun _ _ _ _ ho hd => (step_of_offers ho).trans (accept_of_decode_ok hd _)

/-- Settles O14. -/
theorem idleBlockWaits : Obligations.IdleBlockWaits :=
  fun _ hr hp hw => step_waits hr hp hw

/-- Settles O25, from what SETPIXEL leaves in range and out of range. -/
theorem setPixelCompletes : Obligations.SetPixelCompletes := by
  refine fun s col row on hf hi => ⟨fun h => ?_, fun h => ?_⟩
  · rw [exec_setPixel hf hi, setPixel_of_inRange s.buf on h, setBit]
  · rw [exec_setPixel hf hi, setPixel_of_outOfRange s.buf on h]

/-- Settles O27, with the rows that GLYPH renders. -/
theorem glyphCompletes : Obligations.GlyphCompletes := by
  refine fun s sym hf hi => ⟨glyphRows sym, exec_glyph hf hi sym, ?_, ?_, ?_, fun hD hR hP r => ?_⟩
  · rintro rfl; exact glyphRows_D
  · rintro rfl; exact glyphRows_R
  · rintro rfl; exact glyphRows_P
  · rw [glyphRows_unknown hD hR hP, getElem_blankRows]

end Sys2Proof.Proofs

/-! # Proofs of family 40_display_driver.md -/

namespace Sys2Proof.Machine

/-! ## INIT (R101, R102) -/

theorem exec_init {s : State} (hf : s.fault = false) (hi : s.initDone = false) :
    exec .init s = .next { s with
      initDone := true
      pending := ([LinkEvent.drive] ++ linkEvents configWrites ++ flush s.buf).map .link } := by
  simp [exec, execInit, State.checkNotInitialized, hi, State.conclude_done hf]

/-- The five configuration writes in their fixed order (R102), one after the other. -/
theorem linkEvents_configWrites :
    linkEvents configWrites =
      ChipWrite.events ⟨0x09#8, 0x00#8⟩ ++ ChipWrite.events ⟨0x0A#8, 0x0F#8⟩ ++
        ChipWrite.events ⟨0x0B#8, 0x07#8⟩ ++ ChipWrite.events ⟨0x0C#8, 0x01#8⟩ ++
        ChipWrite.events ⟨0x0F#8, 0x00#8⟩ := by
  simp only [configWrites, linkEvents_cons, linkEvents_nil, List.append_assoc, List.append_nil]

/-! ## GLYPH as CLEAR and SETPIXELs (R118) -/

/-- A buffer is its pixels (R21). -/
theorem rows_eq_of_pixel_eq {a b : Rows} (h : ∀ c r, pixel a c r = pixel b c r) : a = b := by
  ext r hr c hc
  exact h ⟨c, hc⟩ ⟨r, hr⟩

@[simp] theorem pixel_blankRows (c r : Fin 8) : pixel blankRows c r = false := by
  rw [pixel, getElem_blankRows]
  exact BitVec.getLsbD_zero

/-- The SETPIXEL that sets the pixel at `(column, row)`. -/
def lightPixel (p : Fin 8 × Fin 8) : Instr :=
  .setPixel (BitVec.ofNat 8 p.1.val) (BitVec.ofNat 8 p.2.val) true

/-- The coordinates of a glyph's set bits, in the order of `litPixels`. -/
def litCoords (g : Rows) : List (Fin 8 × Fin 8) :=
  (List.finRange 8).flatMap fun r : Fin 8 =>
    ((List.finRange 8).filter fun c : Fin 8 => pixel g c r).map fun c : Fin 8 => (c, r)

theorem litPixels_eq_map_lightPixel (g : Rows) : litPixels g = (litCoords g).map lightPixel := by
  rw [litCoords, List.map_flatMap]
  simp only [List.map_map]
  rfl

theorem mem_litCoords {g : Rows} {c r : Fin 8} : (c, r) ∈ litCoords g ↔ pixel g c r = true := by
  simp [litCoords]

theorem execList_cons {i : Instr} {s u : State} (h : exec i s = .next u) (is : List Instr) :
    execList (i :: is) s = execList is u := by
  simp [execList, h]

/-- One more pixel is lit, and the block is ready for the next command (R113). -/
theorem exec_lightPixel {s : State} (hf : s.fault = false) (hi : s.initDone = true)
    (p : Fin 8 × Fin 8) :
    ∃ u, exec (lightPixel p) s = .next u ∧ u.fault = false ∧ u.initDone = true ∧
      ∀ c r, pixel u.buf c r = true ↔ (c, r) = p ∨ pixel s.buf c r = true := by
  refine ⟨_, exec_setPixel hf hi _ _ true, hf, hi, fun c r => ?_⟩
  have hbyte (k : Fin 8) : (BitVec.ofNat 8 k.val).toNat = k.val := Nat.mod_eq_of_lt (by omega)
  have hcoord : (c : Nat) = p.1 ∧ (r : Nat) = p.2 ↔ (c, r) = p := by
    rw [Prod.ext_iff, Fin.ext_iff, Fin.ext_iff]
  simp [pixel_setPixel, hbyte, hcoord]

/-- SETPIXELs that set the pixels `ps` leave exactly those lit beside the ones that already were. -/
theorem execList_lightPixels (ps : List (Fin 8 × Fin 8)) {s : State} (hf : s.fault = false)
    (hi : s.initDone = true) :
    ∃ v, execList (ps.map lightPixel) s = .next v ∧
      ∀ c r, pixel v.buf c r = true ↔ (c, r) ∈ ps ∨ pixel s.buf c r = true := by
  induction ps generalizing s with
  | nil => exact ⟨s, rfl, by simp⟩
  | cons p ps ih =>
    obtain ⟨u, hu, hfu, hiu, hlit⟩ := exec_lightPixel hf hi p
    obtain ⟨v, hv, hrest⟩ := ih hfu hiu
    refine ⟨v, (execList_cons hu _).trans hv, fun c r => ?_⟩
    rw [hrest, hlit, List.mem_cons, or_assoc, or_left_comm]

/-- CLEAR and then one SETPIXEL for each set bit of `g` leave `g`, whatever the buffer held (R118). -/
theorem execList_clear_litPixels {s : State} (hf : s.fault = false) (hi : s.initDone = true) (g : Rows) :
    ∃ v, execList (.clear :: litPixels g) s = .next v ∧ v.buf = g := by
  obtain ⟨v, hv, hpixel⟩ := execList_lightPixels (litCoords g)
    (s := { s with buf := blankRows, pending := [] }) hf hi
  refine ⟨v, ?_, rows_eq_of_pixel_eq fun c r => ?_⟩
  · rw [execList_cons (exec_clear hf hi), litPixels_eq_map_lightPixel, hv]
  · rw [Bool.eq_iff_iff, hpixel, mem_litCoords]
    simp

theorem glyphRows_of_glyphRead {sym : Byte} {g : Rows} (h : glyphRead sym = some g) :
    glyphRows sym = g := by
  simp [glyphRows, h]

end Sys2Proof.Machine

/-! ## The statements -/

namespace Sys2Proof.Proofs

open Sys2Proof.Machine

/-- Settles O28: the pixels that CLEAR and the SETPIXELs leave lit are the set bits of the glyph. -/
theorem glyphIsClearThenSetPixels : Obligations.GlyphIsClearThenSetPixels := by
  intro s sym g hf hi hg
  obtain ⟨v, hv, hbuf⟩ := execList_clear_litPixels hf hi g
  exact ⟨_, v, exec_glyph hf hi sym, hv, glyphRows_of_glyphRead hg, hbuf⟩

/-- Settles O23, with the configuration writes listed one by one. -/
theorem initCompletes : Obligations.InitCompletes := by
  intro s hf hi
  rw [exec_init hf hi, linkEvents_configWrites]
  rfl

/-- Settles O24. -/
theorem clearCompletes : Obligations.ClearCompletes :=
  fun _ hf hi => exec_clear hf hi

end Sys2Proof.Proofs

/-! # Proofs of family 41_chip_link.md

First the bits and blocks of register writes, then what is read back off a link trace that ends anywhere,
then what a run without reset adds to the observation, then the chip registers that the writes of INIT
leave, and last the statements settled from them. -/

namespace Sys2Proof.Machine

/-! ## The events of a list of register writes (R131 to R133, R135) -/

/-- Each shifted bit has one rising edge of CLK (R133). -/
theorem count_clockRises_shiftBits (bits : List Bool) :
    (bits.flatMap shiftBit).count (.setCLK true) = bits.length := by
  induction bits with
  | nil => rfl
  | cons b bits ih =>
    have hbit : (shiftBit b).count (.setCLK true) = 1 := rfl
    rw [List.flatMap_cons, List.count_append, ih, hbit, List.length_cons, Nat.add_comm]

theorem ChipWrite.count_clockRises_events (w : ChipWrite) : w.events.count (.setCLK true) = 16 := by
  have hshift := count_clockRises_shiftBits (bitsOfByte w.addr ++ bitsOfByte w.data)
  rw [ChipWrite.events_eq, List.count_cons_of_ne (by decide), List.count_append, hshift]
  rfl

/-- The events of write number `k` are the block of 50 that begins at event `50 * k` (R131). -/
theorem getElem?_linkEvents {ws : List ChipWrite} {k : Nat} {w : ChipWrite} (hk : ws[k]? = some w)
    {i : Nat} (hi : i < 50) : (linkEvents ws)[50 * k + i]? = w.events[i]? := by
  induction ws generalizing k with
  | nil => simp at hk
  | cons x ws ih =>
    rw [linkEvents_cons]
    cases k with
    | zero =>
      cases hk
      rw [Nat.mul_zero, Nat.zero_add, List.getElem?_append_left (by rwa [w.events_length])]
    | succ k =>
      have hindex : 50 * (k + 1) + i - x.events.length = 50 * k + i := by
        rw [x.events_length]; omega
      rw [List.getElem?_append_right (by rw [x.events_length]; omega), hindex, ih hk]

/-- Up to its last event, CS high, a register write never raises CS. -/
theorem ChipWrite.events_eq_append (w : ChipWrite) :
    ∃ es, w.events = es ++ [.setCS true] ∧ es.length = 49 ∧ LinkEvent.setCS true ∉ es := by
  refine ⟨.setCS false :: (bitsOfByte w.addr ++ bitsOfByte w.data).flatMap shiftBit,
    w.events_eq, rfl, ?_⟩
  simp [shiftBit]

/-- A register write cut off before its last event has not raised CS. -/
theorem ChipWrite.setCS_true_notMem_take_events (w : ChipWrite) {n : Nat} (hn : n < 50) :
    LinkEvent.setCS true ∉ w.events.take n := by
  obtain ⟨es, hevents, hlength, hcs⟩ := w.events_eq_append
  rw [hevents, List.take_append_of_le_length (by omega)]
  exact fun h => hcs (List.mem_of_mem_take h)

/-! ## Reading back a link trace that ends anywhere (R137, R211) -/

/-- Only `SetCS(1)` completes a write (R137). -/
theorem completedWrite_of_ne {e : LinkEvent} (he : e ≠ .setCS true) (samples : Option (List Pin)) :
    completedWrite samples e = none := by
  cases e with
  | setCS l =>
    cases l with
    | false => rfl
    | true => exact absurd rfl he
  | drive | setCLK | setDIN => rfl

/-- Events that do not raise CS output nothing: what follows them is read back as if it were alone, from
the pins and the samples they leave (R137). -/
theorem scanWrites_append_of_notMem {es : List LinkEvent} (h : LinkEvent.setCS true ∉ es) (p : Pins)
    (samples : Option (List Pin)) :
    ∃ p' samples', ∀ es', scanWrites p samples (es ++ es') = scanWrites p' samples' es' := by
  induction es generalizing p samples with
  | nil => exact ⟨p, samples, fun _ => rfl⟩
  | cons e es ih =>
    obtain ⟨hne, hrest⟩ := not_or.1 (List.mem_cons.not.1 h)
    obtain ⟨p', samples', hscan⟩ := ih hrest (p.apply e) (samplesAfter p samples e)
    refine ⟨p', samples', fun es' => ?_⟩
    rw [List.cons_append, scanWrites, completedWrite_of_ne (Ne.symm hne), hscan]
    rfl

theorem scanWrites_of_notMem {es : List LinkEvent} (h : LinkEvent.setCS true ∉ es) (p : Pins)
    (samples : Option (List Pin)) : scanWrites p samples es = [] := by
  obtain ⟨p', samples', hscan⟩ := scanWrites_append_of_notMem h p samples
  rw [← List.append_nil es, hscan]
  rfl

/-- `Drive` drops what was sampled since CS was last raised (log entry 7). -/
theorem scanWrites_append_drive_of_notMem {es : List LinkEvent} (h : LinkEvent.setCS true ∉ es)
    (p : Pins) (samples : Option (List Pin)) (es' : List LinkEvent) :
    scanWrites p samples (es ++ .drive :: es') = writes (.drive :: es') := by
  obtain ⟨p', samples', hscan⟩ := scanWrites_append_of_notMem h p samples
  rw [hscan]
  rfl

/-- Register writes sent whole are read back before whatever follows them. -/
theorem scanWrites_linkEvents_append (ws : List ChipWrite) (p : Pins) (es : List LinkEvent) :
    scanWrites p none (linkEvents ws ++ es) =
      ws ++ scanWrites ((linkEvents ws).foldl Pins.apply p) none es := by
  induction ws generalizing p with
  | nil => rfl
  | cons w ws ih =>
    rw [linkEvents_cons, List.append_assoc, scanWrites_events_append, ih, List.foldl_append]
    rfl

/-- Of a trace of register writes cut off after `n` events, the writes with all 50 events are read back. -/
theorem scanWrites_take_linkEvents (ws : List ChipWrite) (n : Nat) (p : Pins)
    (samples : Option (List Pin)) :
    scanWrites p samples ((linkEvents ws).take n) = ws.take (n / 50) := by
  induction ws generalizing n p samples with
  | nil => simp [scanWrites]
  | cons w ws ih =>
    obtain hn | ⟨m, rfl⟩ : n < 50 ∨ ∃ m, n = 50 + m :=
      (Nat.lt_or_ge n 50).imp_right Nat.exists_eq_add_of_le
    · rw [linkEvents_cons, List.take_append_of_le_length (by simp; omega),
        scanWrites_of_notMem (w.setCS_true_notMem_take_events hn), Nat.div_eq_of_lt hn]
      rfl
    · have hcut : (w.events ++ linkEvents ws).take (50 + m) = w.events ++ (linkEvents ws).take m := by
        rw [← w.events_length, List.take_length_add_append]
      have hcount : (50 + m) / 50 = m / 50 + 1 := by omega
      rw [linkEvents_cons, hcut, scanWrites_events_append, ih, hcount]
      rfl

/-- A trace of the drive event and register writes, cut off after `m` events in all (R137). -/
theorem writes_take_drive_linkEvents (ws : List ChipWrite) (m : Nat) :
    writes ((LinkEvent.drive :: linkEvents ws).take m) = ws.take ((m - 1) / 50) := by
  cases m with
  | zero => rfl
  | succ m => exact scanWrites_take_linkEvents ws m _ _

/-- Any bits shifted between CS low and CS high are the write of their levels, if they are one (R137). -/
theorem writes_shiftBits (bits : List Bool) :
    writes ([.drive, .setCS false] ++ bits.flatMap shiftBit ++ [.setCS true]) =
      (writeOfSamples (bits.map Pin.level)).toList := by
  have hscan := scanWrites_shiftBits (p := ⟨.low, .low, .low⟩) rfl bits [] [.setCS true]
  rw [List.append_assoc]
  refine hscan.trans ?_
  simp [scanWrites, completedWrite]

/-- The byte of eight bits has the first of them as its most significant one (R53). -/
theorem getElem?_eq_getLsbD_byteOfBits {bits : List Bool} (h : bits.length = 8) (k : Fin 8) :
    bits[(k : Nat)]? = some ((byteOfBits bits).getLsbD (7 - k)) := by
  rw [getLsbD_byteOfBits bits (by omega), List.getElem?_reverse (by omega), h]
  have hk : 8 - 1 - (7 - (k : Nat)) = k := by omega
  rw [hk, List.getElem?_eq_getElem (by omega)]
  rfl

/-! ## Runs without reset -/

theorem Accepts.inputsAt_eq {s u : State} {t : Token} (h : Accepts s t u) (k : Nat) :
    u.inputsAt k = s.inputsAt k := by
  cases h with
  | discarded | refused => rfl
  | executed _ _ hx => cases hx <;> rfl

/-- Every step uses up the input lines of one step (R35). -/
theorem inputsAt_of_step {s u : State} (h : step s = .next u) (k : Nat) :
    u.inputsAt k = s.inputsAt (k + 1) := by
  rw [← State.inputsAt_advanceInputs]
  cases steps_of_step h with
  | reset | holds | emits | waits => rfl
  | accepts _ ha => exact ha.inputsAt_eq k

/-- What was emitted, and what was emitted and then listed, are the beginnings of what is later: without
reset nothing of them is taken back, reordered or skipped (R60). -/
structure Continues (s u : State) : Prop where
  log : s.log <+: u.log
  output : s.log ++ s.pending.map .emitted <+: u.log ++ u.pending.map .emitted

theorem Continues.refl (s : State) : Continues s s := ⟨List.prefix_rfl, List.prefix_rfl⟩

theorem Continues.trans {s u v : State} (h : Continues s u) (h' : Continues u v) : Continues s v :=
  ⟨h.log.trans h'.log, h.output.trans h'.output⟩

theorem continues_of_step {s u : State} (hr : s.inputs.reset = false) (h : step s = .next u) :
    Continues s u := by
  cases steps_of_step h with
  | reset hr' => simp [hr] at hr'
  | holds | waits => exact ⟨List.prefix_rfl, List.prefix_rfl⟩
  | emits _ hp => exact ⟨by simp, by simp [hp]⟩
  | accepts ho ha =>
    have hlog : u.log = s.log := ha.log_eq
    exact ⟨hlog ▸ List.prefix_rfl, by simp [hlog, ho.idle]⟩

theorem continues_of_run {n : Nat} {s v : State} (hr : ∀ k, k < n → (s.inputsAt k).reset = false)
    (h : Host.Core.run core n s = .next v) : Continues s v := by
  induction n generalizing s with
  | zero =>
    cases (run_zero s).symm.trans h
    exact .refl _
  | succ n ih =>
    obtain ⟨u, hu, -⟩ := step_next_steps s
    rw [run_succ_of_step hu] at h
    have hr0 : s.inputs.reset = false := s.inputsAt_zero ▸ hr 0 (by omega)
    refine (continues_of_step hr0 hu).trans (ih (fun k hk => ?_) h)
    rw [inputsAt_of_step hu]
    exact hr (k + 1) (by omega)

/-- A run that has not emitted the whole work list yet has emitted a first part of it, in order. -/
theorem Continues.log_eq {s v : State} (h : Continues s v)
    (hlt : v.log.length < s.log.length + s.pending.length) :
    v.log = s.log ++ (s.pending.take (v.log.length - s.log.length)).map .emitted := by
  have hle := h.log.length_le
  have hprefix : v.log <+: s.log ++ s.pending.map .emitted :=
    List.prefix_of_prefix_length_le (List.prefix_append _ _) h.output (by simp; omega)
  rw [List.map_take]
  calc v.log = (s.log ++ s.pending.map Observed.emitted).take v.log.length :=
        List.prefix_iff_eq_take.1 hprefix
    _ = _ := by rw [List.take_append, List.take_of_length_le hle]

/-- Link events need no gate but `link_ready`, so a run with this one open emits them all (R220). -/
theorem run_drains_links {s : State} {es : List LinkEvent} (hp : s.pending = es.map .link)
    (hopen : ∀ k, k < s.pending.length →
      (s.inputsAt k).reset = false ∧ (s.inputsAt k).linkReady = true) :
    ∃ v, Host.Core.run core s.pending.length s = .next v ∧
      v.log = s.log ++ s.pending.map .emitted := by
  refine ⟨_, run_drains rfl fun k hk => ?_, rfl⟩
  have hmem : s.pending[k] ∈ es.map WorkItem.link := by
    rw [← hp]
    exact List.getElem_mem hk
  obtain ⟨e, -, he⟩ := List.mem_map.1 hmem
  rw [← he]
  exact hopen k hk

/-! ## The chip registers that the writes of INIT leave (R101, R141) -/

@[simp] theorem eventsSinceReset_append_links (log : List Observed) (es : List LinkEvent) :
    eventsSinceReset (log ++ (es.map .link).map .emitted) = eventsSinceReset log ++ es := by
  induction es using List.reverseRecOn with
  | nil => simp
  | append_singleton es e ih =>
    rw [List.map_append, List.map_append, ← List.append_assoc, List.map_singleton, List.map_singleton,
      eventsSinceReset_link, ih, List.append_assoc]

theorem lastWriteTo_eq_none {ws : List ChipWrite} {k : Byte} (h : k ∉ ws.map ChipWrite.addr) :
    lastWriteTo k ws = none := by
  simpa [lastWriteTo] using h

/-- Where no register is written twice, each holds the data of its write. -/
theorem lastWriteTo_of_mem {ws : List ChipWrite} (hnodup : (ws.map ChipWrite.addr).Nodup)
    {w : ChipWrite} (hw : w ∈ ws) : lastWriteTo w.addr ws = some w.data := by
  obtain ⟨x, hx⟩ : ∃ x, ws.reverse.find? (fun x => x.addr == w.addr) = some x :=
    Option.isSome_iff_exists.1 (List.find?_isSome.2 ⟨w, by simpa using hw, by simp⟩)
  have haddr : x.addr = w.addr := by simpa using List.find?_some hx
  have hmem : x ∈ ws := by simpa using List.mem_of_find?_eq_some hx
  cases List.inj_on_of_nodup_map hnodup hmem hw haddr
  simp [lastWriteTo, hx]

/-- After the first `m` of such writes, exactly the registers of these hold their data. -/
theorem lastWriteTo_take {ws : List ChipWrite} (hnodup : (ws.map ChipWrite.addr).Nodup) {j : Nat}
    {w : ChipWrite} (hj : ws[j]? = some w) (m : Nat) :
    lastWriteTo w.addr (ws.take m) = if j < m then some w.data else none := by
  have htake : ((ws.take m).map ChipWrite.addr).Nodup :=
    hnodup.sublist ((List.take_sublist m ws).map _)
  split
  next hlt =>
    refine lastWriteTo_of_mem htake (List.mem_of_getElem? (i := j) ?_)
    rwa [List.getElem?_take_of_lt hlt]
  next hge =>
    refine lastWriteTo_eq_none fun hmem => ?_
    have hdrop : w.addr ∈ (ws.map ChipWrite.addr).drop m := by
      rw [← List.map_drop]
      refine List.mem_map_of_mem (List.mem_of_getElem? (i := j - m) ?_)
      rwa [List.getElem?_drop, Nat.add_sub_cancel' (by omega)]
    rw [List.map_take] at hmem
    exact List.disjoint_take_drop hnodup le_rfl hmem hdrop

/-- The register writes of INIT: the configuration and then the rows (R101). -/
def initWrites (buf : Rows) : List ChipWrite := configWrites ++ rowWrites buf

theorem exec_init_initWrites {s : State} (hf : s.fault = false) (hi : s.initDone = false) :
    exec .init s = .next { s with
      initDone := true
      pending := (.drive :: linkEvents (initWrites s.buf)).map .link } := by
  rw [exec_init hf hi, initWrites, linkEvents_append]
  rfl

theorem addrs_initWrites (buf : Rows) :
    (initWrites buf).map ChipWrite.addr =
      [0x09#8, 0x0A#8, 0x0B#8, 0x0C#8, 0x0F#8,
        0x01#8, 0x02#8, 0x03#8, 0x04#8, 0x05#8, 0x06#8, 0x07#8, 0x08#8] := rfl

theorem length_initItems (buf : Rows) :
    ((LinkEvent.drive :: linkEvents (initWrites buf)).map WorkItem.link).length = 651 := by
  rw [List.length_map, List.length_cons, linkEvents_length]
  rfl

theorem nodup_addrs_initWrites (buf : Rows) : ((initWrites buf).map ChipWrite.addr).Nodup := by
  rw [addrs_initWrites]
  decide

/-- INIT does not write the no-op register 0x00, 0x0D, 0x0E or an address above 0x0F (R51). -/
theorem addr_notMem_initWrites {k : Byte}
    (hk : k.toNat = 0 ∨ k.toNat = 0x0D ∨ k.toNat = 0x0E ∨ 0x10 ≤ k.toNat) (buf : Rows) :
    k ∉ (initWrites buf).map ChipWrite.addr := by
  rw [addrs_initWrites]
  intro hmem
  simp only [List.mem_cons, List.not_mem_nil, or_false, ← BitVec.toNat_inj, BitVec.toNat_ofNat] at hmem
  omega

theorem map_data_rowWrites (buf : Rows) : (rowWrites buf).map ChipWrite.data = buf.toList := by
  refine List.ext_getElem (by simp [rowWrites]) fun k hk _ => ?_
  have hk : k < 8 := hk
  interval_cases k <;> rfl

theorem mem_rowWrites (buf : Rows) (r : Fin 8) :
    (⟨BitVec.ofNat 8 (r + 1), buf[r]⟩ : ChipWrite) ∈ rowWrites buf := by
  fin_cases r <;> simp [rowWrites]

/-- Before INIT nothing has been sent since the last reset (R31). -/
theorem Inv.eventsSinceReset_of_not_initDone {s : State} (h : Inv s) (hi : s.initDone = false) :
    eventsSinceReset s.log = [] :=
  eventsSinceReset_of_undriven (h.pinsAgree.symm.trans (h.undrivenBeforeInit hi).1)

/-- When the first `m` of the drive event and the events of `ws` have left since the last reset, the chip
view is that of the writes whose 50 events have all left. -/
theorem chipRegister_of_take {v : State} {log : List Observed} (hlog : eventsSinceReset log = [])
    {ws : List ChipWrite} {m : Nat}
    (hv : v.log = log ++ (((LinkEvent.drive :: linkEvents ws).map .link).take m).map .emitted)
    (k : Byte) : v.chipRegister k = lastWriteTo k (ws.take ((m - 1) / 50)) := by
  rw [State.chipRegister, hv, ← List.map_take, eventsSinceReset_append_links, hlog, List.nil_append,
    writes_take_drive_linkEvents]

/-- When all items of INIT have left, the chip view is that of all its writes. -/
theorem chipRegister_of_initDrained {v : State} {log : List Observed} (hlog : eventsSinceReset log = [])
    {buf : Rows}
    (hv : v.log = log ++ ((LinkEvent.drive :: linkEvents (initWrites buf)).map .link).map .emitted)
    (k : Byte) : v.chipRegister k = lastWriteTo k (initWrites buf) := by
  have hall : v.log = log ++
      (((LinkEvent.drive :: linkEvents (initWrites buf)).map .link).take 651).map .emitted := by
    rw [hv, ← length_initItems buf, List.take_length]
  exact chipRegister_of_take hlog hall k

/-! ## SENDFRAME with legal operands (R150, R188) -/

theorem isSome_gearOfCode {code : BitVec 2} (h : code ≠ 0b11#2) : (gearOfCode code).isSome = true := by
  decide +revert

theorem isSome_turnOfCode {code : BitVec 2} (h : code ≠ 0b11#2) : (turnOfCode code).isSome = true := by
  decide +revert

theorem exists_controlState_of_wf {o : OperandBlock} (h : o.wf = true) :
    ∃ c, controlState o = some c := by
  simp only [OperandBlock.wf, Bool.and_eq_true, bne_iff_ne, beq_iff_eq] at h
  obtain ⟨⟨hgear, hturn⟩, hreserved⟩ := h
  obtain ⟨g, hg⟩ := Option.isSome_iff_exists.1 (isSome_gearOfCode hgear)
  obtain ⟨t, ht⟩ := Option.isSome_iff_exists.1 (isSome_turnOfCode hturn)
  exact ⟨⟨o.acc, o.dec, o.ang, o.hb, g, t⟩, by simp [controlState, hreserved, hg, ht]⟩

theorem exec_sendFrame {s : State} (hf : s.fault = false) {o : OperandBlock} {c : ControlState}
    (hc : controlState o = some c) :
    exec (.sendFrame o) s = .next { s with pending := (frame c).map .tx } := by
  simp only [exec, execSendFrame, hc, State.conclude_done hf]

theorem frame_length (c : ControlState) : (frame c).length = 16 := rfl

theorem flush_length (buf : Rows) : (flush buf).length = 400 := linkEvents_length (rowWrites buf)

end Sys2Proof.Machine

/-! ## The statements -/

namespace Sys2Proof.Proofs

open Sys2Proof.Machine

/-- Settles O39: any shifted bits are the write of their levels, and 16 levels are two bytes. -/
theorem writesReadBackWhatWasSent : Obligations.WritesReadBackWhatWasSent := by
  refine ⟨writes_drive_linkEvents, fun bits => ?_⟩
  rw [writes_shiftBits, writeOfSamples_map_level]
  refine ⟨fun h => by rw [if_neg h]; rfl, fun h => ?_⟩
  rw [if_pos h]
  refine ⟨_, _, rfl, fun k => ⟨?_, ?_⟩⟩
  · rw [← getElem?_eq_getLsbD_byteOfBits (by simp [h]), List.getElem?_take_of_lt (by omega)]
  · rw [← getElem?_eq_getLsbD_byteOfBits (by simp [h]), List.getElem?_drop, Nat.add_comm]

/-- Settles O40: a cut write never raises CS, so it completes nothing, and `Drive` drops its samples. -/
theorem cutWriteAddsNothing : Obligations.CutWriteAddsNothing := by
  intro ws ws' w n hn
  have hcut := w.setCS_true_notMem_take_events hn
  constructor
  · rw [writes, scanWrites_drive, scanWrites_linkEvents_append, scanWrites_of_notMem hcut,
      List.append_nil]
  · rw [List.append_assoc, writes, scanWrites_drive, scanWrites_linkEvents_append,
      scanWrites_append_drive_of_notMem hcut, writes_drive_linkEvents]

/-- Settles O41: a flush is the eight register writes of the rows, each a block of 50 events. -/
theorem flushWritesRegistersInAscendingOrder : Obligations.FlushWritesRegistersInAscendingOrder := by
  intro buf
  rw [flush, writes_drive_linkEvents]
  refine ⟨rfl, map_data_rowWrites buf, flush_length buf, fun k => ?_⟩
  have hk : (rowWrites buf)[(k : Nat)]? = some (rowWrites buf)[(k : Nat)] :=
    List.getElem?_eq_getElem k.isLt
  exact ⟨getElem?_linkEvents hk (i := 0) (by decide), getElem?_linkEvents hk (i := 49) (by decide)⟩

/-- Settles O43, from the pin rules of register writes after `Drive`. -/
theorem pinRulesHoldOnTheLink : Obligations.PinRulesHoldOnTheLink :=
  fun ws => ⟨itemsAllowed_drive_linkEvents ws, fun w _ => w.count_clockRises_events⟩

/-- Settles O50: the run drains INIT, and what is then read back since the last reset are its writes. -/
theorem chipViewAfterInit : Obligations.ChipViewAfterInit := by
  intro s u hinv hf hi hu hopen
  cases (exec_init_initWrites hf hi).symm.trans hu
  obtain ⟨v, hv, hlog⟩ := run_drains_links rfl hopen
  refine ⟨v, hv, ?_⟩
  have hview := chipRegister_of_initDrained (hinv.eventsSinceReset_of_not_initDone hi) hlog
  have hwritten (w : ChipWrite) (hw : w ∈ initWrites s.buf) : v.chipRegister w.addr = some w.data :=
    (hview w.addr).trans (lastWriteTo_of_mem (nodup_addrs_initWrites s.buf) hw)
  have hunknown (k : Byte) (hk : k.toNat = 0 ∨ k.toNat = 0x0D ∨ k.toNat = 0x0E ∨ 0x10 ≤ k.toNat) :
      v.chipRegister k = none :=
    (hview k).trans (lastWriteTo_eq_none (addr_notMem_initWrites hk s.buf))
  have hconfig (w : ChipWrite) (hw : w ∈ configWrites) : v.chipRegister w.addr = some w.data :=
    hwritten w (List.mem_append_left _ hw)
  exact ⟨fun r => hwritten _ (List.mem_append_right _ (mem_rowWrites s.buf r)),
    hconfig ⟨0x09#8, 0x00#8⟩ (by decide), hconfig ⟨0x0A#8, 0x0F#8⟩ (by decide),
    hconfig ⟨0x0B#8, 0x07#8⟩ (by decide), hconfig ⟨0x0C#8, 0x01#8⟩ (by decide),
    hconfig ⟨0x0F#8, 0x00#8⟩ (by decide), hunknown _ (by decide), hunknown _ (by decide),
    hunknown _ (by decide), fun k hk => hunknown k (.inr (.inr (.inr hk)))⟩

/-- Settles O52: a run without reset has emitted a first part of INIT, and the writes whose events have all
left are the known ones. -/
theorem chipRegistersKnownAsInitWritesThem : Obligations.ChipRegistersKnownAsInitWritesThem := by
  intro s u v n hinv hf hi hu hr hrun hlt
  cases (exec_init_initWrites hf hi).symm.trans hu
  have hcont := continues_of_run hr hrun
  have hview := chipRegister_of_take (hinv.eventsSinceReset_of_not_initDone hi) (hcont.log_eq hlt)
  refine ⟨fun j w hj => ?_, fun k hk => ?_⟩
  · rw [hview, lastWriteTo_take (nodup_addrs_initWrites s.buf) hj]
    exact if_congr (by omega) rfl rfl
  · rw [hview, lastWriteTo_eq_none]
    rw [List.map_take]
    exact fun h => addr_notMem_initWrites hk s.buf (List.mem_of_mem_take h)

/-- Settles O32, from the work list each command leaves. -/
theorem workListLengths : Obligations.WorkListLengths := by
  intro s hf
  refine ⟨fun hi => ⟨_, exec_init_initWrites hf hi, ?_⟩,
    fun hi => ⟨fun sym => ⟨_, exec_glyph hf hi sym, ?_⟩, ⟨_, exec_clear hf hi, rfl⟩,
      fun col row on => ⟨_, exec_setPixel hf hi col row on, rfl⟩⟩,
    fun o ho => ?_, ChipWrite.events_length, flush_length⟩
  · exact length_initItems s.buf
  · rw [List.length_map, flush_length]
  · obtain ⟨c, hc⟩ := exists_controlState_of_wf ho
    exact ⟨_, exec_sendFrame hf hc, by rw [List.length_map, frame_length]⟩

end Sys2Proof.Proofs

/-! # Proofs of family 42_telemetry_frame.md

First the control state of a legal operand block and its frame, then the run that accepts and sends one
frame, then any number of them by induction, and last the statements settled from these. -/

namespace Sys2Proof.Machine

/-! ## The frame of an operand block (R80, R151, R155, R156) -/

theorem gear8_of_gearOfCode {code : BitVec 2} {g : Gear} (h : gearOfCode code = some g) :
    gear8 g = if code = 0b00#2 then 0x50#8 else if code = 0b01#2 then 0x44#8 else 0x52#8 := by
  cases g <;> decide +revert

theorem turn8_of_turnOfCode {code : BitVec 2} {t : Turn} (h : turnOfCode code = some t) :
    turn8 t = if code = 0b00#2 then 0x4E#8 else if code = 0b01#2 then 0x4C#8 else 0x52#8 := by
  cases t <;> decide +revert

/-- Inversion of the control state: ACC, DEC, ANG and HB are taken over as they are, GEAR and TURN through
their code tables (R80). -/
theorem controlState_inv {o : OperandBlock} {c : ControlState} (h : controlState o = some c) :
    ∃ g t, gearOfCode o.gear = some g ∧ turnOfCode o.turn = some t ∧
      c = ⟨o.acc, o.dec, o.ang, o.hb, g, t⟩ := by
  unfold controlState at h
  split at h
  next =>
    split at h
    next g t hg ht => exact ⟨g, t, hg, ht, (Option.some.inj h).symm⟩
    next => cases h
  next => cases h

theorem frameOf_of_controlState {o : OperandBlock} {c : ControlState} (hc : controlState o = some c) :
    frameOf o = frame c := by
  simp [frameOf, hc]

theorem frame_getElem?_zero (c : ControlState) : (frame c)[0]? = some 0xAA#8 := rfl

/-! ## Sending frames one after the other (R55, R152) -/

/-- The state after `bytes` have left on the serial port, with the tokens `ts` still to offer. -/
def State.afterSending (s : State) (bytes : List Byte) (ts : List Token) : State :=
  { s with log := s.log ++ (bytes.map .tx).map .emitted, tokens := ts }

@[simp] theorem State.txTrace_afterSending (s : State) (bytes : List Byte) (ts : List Token) :
    (s.afterSending bytes ts).txTrace = s.txTrace ++ bytes := by
  have hbyte : (fun b => Observed.txByte (.emitted (.tx b))) = some := rfl
  simp [State.txTrace, State.afterSending, List.filterMap_map, Function.comp_def, hbyte]

@[simp] theorem State.linkTrace_afterSending (s : State) (bytes : List Byte) (ts : List Token) :
    (s.afterSending bytes ts).linkTrace = s.linkTrace := by
  simp [State.linkTrace, State.afterSending, Observed.linkEvent]

theorem State.afterSending_nil {s : State} {ts : List Token} (ht : s.tokens = ts) :
    s.afterSending [] ts = s := by
  subst ht
  simp [State.afterSending]

theorem State.afterSending_afterSending (s : State) (bytes bytes' : List Byte) (ts ts' : List Token) :
    (s.afterSending bytes ts).afterSending bytes' ts' = s.afterSending (bytes ++ bytes') ts' := by
  simp [State.afterSending]

theorem foldl_pinsAfterItem_map_tx (bytes : List Byte) (p : Pins) :
    (bytes.map WorkItem.tx).foldl pinsAfterItem p = p := by
  induction bytes with
  | nil => rfl
  | cons b bytes ih => exact ih

theorem State.smoothRun.inputsAt_eq {s : State} (h : s.smoothRun) (k : Nat) :
    s.inputsAt k = .allReady := by
  obtain ⟨hupcoming, hsettled⟩ := h
  simp [State.inputsAt, hupcoming, hsettled]

/-- Listed bytes leave one a step while the gates are open, and touch nothing but the observation. -/
theorem run_sends_bytes {s : State} (hs : s.smoothRun) {bytes : List Byte}
    (hp : s.pending = bytes.map .tx) :
    Host.Core.run core bytes.length s =
      .next (State.afterSending { s with pending := [] } bytes s.tokens) := by
  have hopen : ∀ (k : Nat) (h : k < (bytes.map WorkItem.tx).length),
      (s.inputsAt k).reset = false ∧ (s.inputsAt k).ready (bytes.map WorkItem.tx)[k] = true := by
    intro k h
    rw [hs.inputsAt_eq, List.getElem_map]
    exact ⟨rfl, rfl⟩
  have hrun := run_drains hp hopen
  rw [List.length_map, foldl_pinsAfterItem_map_tx] at hrun
  obtain ⟨hupcoming, -⟩ := hs
  rw [hrun]
  simp [State.afterSending, hupcoming]

theorem run_add_of_run {m : Nat} {s u : State} (h : Host.Core.run core m s = .next u) (n : Nat) :
    Host.Core.run core (m + n) s = Host.Core.run core n u := by
  induction m generalizing s with
  | zero =>
    cases (run_zero s).symm.trans h
    rw [Nat.zero_add]
  | succ m ih =>
    obtain ⟨v, hv, -⟩ := step_next_steps s
    rw [run_succ_of_step hv] at h
    rw [Nat.add_right_comm, run_succ_of_step hv, ih h]

/-- One step accepts a legal SENDFRAME token and 16 more send its frame. -/
theorem run_sends_frame {s : State} {o : OperandBlock} {ts : List Token} (hs : s.smoothRun)
    (hp : s.pending = []) (hf : s.fault = false) (ho : o.wf = true)
    (ht : s.tokens = encode (.sendFrame o) :: ts) :
    Host.Core.run core 17 s = .next (s.afterSending (frameOf o) ts) := by
  obtain ⟨c, hc⟩ := exists_controlState_of_wf ho
  have hinputs : s.inputs = .allReady := s.inputsAt_zero ▸ hs.inputsAt_eq 0
  obtain ⟨hupcoming, hsettled⟩ := hs
  have hoffers : s.Offers (encode (.sendFrame o)) ts :=
    ⟨hinputs ▸ rfl, hinputs ▸ rfl, hp, ht⟩
  have haccept : step s = .next { s.accepting ts with pending := (frame c).map .tx } := by
    rw [step_of_offers hoffers, accept_of_decode_ok (decode_encode _)]
    exact exec_sendFrame (s := s.accepting ts) hf hc
  have hsend := run_sends_bytes (s := { s.accepting ts with pending := (frame c).map .tx })
    (bytes := frame c) ⟨by simp [State.accepting, hupcoming], hsettled⟩ rfl
  refine (run_succ_of_step haccept 16).trans (hsend.trans ?_)
  simp [State.afterSending, State.accepting, hp, hupcoming, frameOf_of_controlState hc]

/-- Legal SENDFRAME tokens, each accepted and drained, send exactly their frames one after the other. -/
theorem run_sends_frames {os : List OperandBlock} {ts : List Token} {s : State} (hs : s.smoothRun)
    (hp : s.pending = []) (hf : s.fault = false) (hos : ∀ o ∈ os, o.wf = true)
    (ht : s.tokens = os.map (fun o => encode (.sendFrame o)) ++ ts) :
    Host.Core.run core (17 * os.length) s = .next (s.afterSending (os.flatMap frameOf) ts) := by
  induction os generalizing s with
  | nil => exact (run_zero s).trans (congrArg Host.Outcome.next (State.afterSending_nil ht).symm)
  | cons o os ih =>
    obtain ⟨ho, hos⟩ := List.forall_mem_cons.1 hos
    have hlength : 17 * (o :: os).length = 17 + 17 * os.length := by
      rw [List.length_cons]
      omega
    have hframe := run_sends_frame hs hp hf ho ht
    have hrest := ih (s := s.afterSending (frameOf o) (os.map (fun o => encode (.sendFrame o)) ++ ts))
      hs hp hf hos rfl
    rw [hlength, List.flatMap_cons, ← State.afterSending_afterSending]
    exact (run_add_of_run hframe _).trans hrest

end Sys2Proof.Machine

/-! ## The statements -/

namespace Sys2Proof.Proofs

open Sys2Proof.Machine

/-- Settles O46: the run over all tokens by induction (`run_sends_frames`), the form of a frame from the
control state. -/
theorem consecutiveFramesAbut : Obligations.ConsecutiveFramesAbut := by
  intro os ts s hs hp hf hos ht
  refine ⟨⟨_, run_sends_frames hs hp hf hos ht, rfl, hp, s.txTrace_afterSending _ ts,
    s.linkTrace_afterSending _ ts, rfl, rfl, hf⟩, fun o ho => ?_⟩
  obtain ⟨c, hc⟩ := exists_controlState_of_wf (hos o ho)
  rw [frameOf_of_controlState hc]
  exact ⟨frame_length c, frame_getElem?_zero c⟩

/-- Settles O29: the operand block stands for a control state, and its characters are those of the codes. -/
theorem sendFrameCompletes : Obligations.SendFrameCompletes := by
  intro s o hf hgear hturn hreserved
  have ho : o.wf = true := by simp [OperandBlock.wf, hgear, hturn, hreserved]
  obtain ⟨c, hc⟩ := exists_controlState_of_wf ho
  obtain ⟨g, t, hg, ht, rfl⟩ := controlState_inv hc
  rw [exec_sendFrame hf hc, ← gear8_of_gearOfCode hg, ← turn8_of_turnOfCode ht]
  rfl

/-- Settles O30: both states list the frame of the one control state the block stands for. -/
theorem frameDependsOnTheOperandsOnly : Obligations.FrameDependsOnTheOperandsOnly := by
  intro o s s' ho hf hf'
  obtain ⟨c, hc⟩ := exists_controlState_of_wf ho
  exact ⟨_, _, exec_sendFrame hf hc, exec_sendFrame hf' hc, rfl⟩

/-- Settles O31: the frame of the control state of V1. -/
theorem workedExampleFrame : Obligations.WorkedExampleFrame :=
  ⟨_, exec_sendFrame rfl rfl, by decide⟩

end Sys2Proof.Proofs

/-! # Proofs of family 60_exceptions.md

First the two rejections of the decoder, then the commands that are refused, then the acceptance pseudocode
check by check and effect by effect, then what a faulted block does, and last the statements settled from
these. -/

namespace Sys2Proof

/-! ## The opcode field and the reserved bits of a command word (R75, R182, R184) -/

theorem opcodeOf_eq_some_iff {cmd : Word} {op : Opcode} :
    opcodeOf cmd = some op ↔ cmd.extractLsb' 0 4 = op.code := by
  refine ⟨opcodeField_of_opcodeOf, fun h => ?_⟩
  cases op with
  | init => exact opcodeOf_init h
  | clear => exact opcodeOf_clear h
  | setPixel => exact opcodeOf_setPixel h
  | glyph => exact opcodeOf_glyph h
  | sendFrame => exact opcodeOf_sendFrame h

theorem mem_opcodes_iff {code : BitVec 4} :
    code ∈ [0x1#4, 0x2#4, 0x3#4, 0x4#4, 0x5#4] ↔ ∃ op : Opcode, code = op.code := by
  constructor
  · intro h
    simp only [List.mem_cons, List.not_mem_nil, or_false] at h
    obtain rfl | rfl | rfl | rfl | rfl := h
    exacts [⟨.init, rfl⟩, ⟨.clear, rfl⟩, ⟨.setPixel, rfl⟩, ⟨.glyph, rfl⟩, ⟨.sendFrame, rfl⟩]
  · rintro ⟨op, rfl⟩
    cases op <;> decide

theorem opcodeOf_eq_none_iff {cmd : Word} :
    opcodeOf cmd = none ↔ cmd.extractLsb' 0 4 ∉ [0x1#4, 0x2#4, 0x3#4, 0x4#4, 0x5#4] := by
  rw [mem_opcodes_iff, not_exists, Option.eq_none_iff_forall_ne_some]
  exact forall_congr' fun _ => not_congr opcodeOf_eq_some_iff

theorem decode_eq_illegalOpcode_iff {t : Token} :
    decode t = .error .illegalOpcode ↔ opcodeOf t.cmd = none := by
  refine ⟨fun h => ?_, decode_illegalOpcode⟩
  obtain ⟨hop, -⟩ | ⟨_, -, -, hd⟩ | ⟨_, -, -, hd⟩ := decode_cases t
  · exact hop
  all_goals cases hd.symm.trans h

theorem decode_eq_reservedField_iff {t : Token} :
    decode t = .error .reservedField ↔
      ∃ op : Opcode, t.cmd.extractLsb' 0 4 = op.code ∧ t.cmd &&& reservedMask op ≠ 0#32 := by
  constructor
  · intro h
    obtain ⟨-, hd⟩ | ⟨op, hop, hr, -⟩ | ⟨_, -, -, hd⟩ := decode_cases t
    case inr.inl => exact ⟨op, opcodeField_of_opcodeOf hop, hr⟩
    all_goals cases hd.symm.trans h
  · rintro ⟨op, hop, hr⟩
    exact decode_reservedField (opcodeOf_eq_some_iff.2 hop) hr

/-- A mask that covers one field selects nothing from a word in which that field is zero. -/
theorem and_fieldMask_eq_zero {cmd : Word} {start len : Nat} (h : cmd.extractLsb' start len = 0#len) :
    cmd &&& (BitVec.allOnes len).setWidth 32 <<< start = 0#32 := by
  ext i hi
  by_cases hin : start ≤ i ∧ i - start < len
  · obtain ⟨hstart, hlen⟩ := hin
    have hbit : (cmd.extractLsb' start len).getLsbD (i - start) = cmd.getLsbD i := by
      rw [BitVec.getLsbD_extractLsb', Nat.add_sub_cancel' hstart]
      simp [hlen]
    rw [h, BitVec.getLsbD_eq_getElem hi] at hbit
    simp [← hbit]
  · simp only [not_and, not_lt] at hin
    simpa using fun _ => hin

/-- Format N (R72), the mask of INIT, CLEAR and SENDFRAME. -/
theorem and_reservedMask_formatN_eq_zero_iff (cmd : Word) :
    cmd &&& 0xFFFFFFF0#32 = 0#32 ↔ cmd.extractLsb' 4 28 = 0#28 :=
  ⟨fun h => reservedField_eq_zero h rfl, fun h => and_fieldMask_eq_zero h⟩

/-- Format P (R73): the mask is the two reserved fields of SETPIXEL. -/
theorem and_reservedMask_setPixel_eq_zero_iff (cmd : Word) :
    cmd &&& reservedMask .setPixel = 0#32 ↔
      cmd.extractLsb' 24 8 = 0#8 ∧ cmd.extractLsb' 5 3 = 0#3 := by
  refine ⟨fun h => ⟨reservedField_eq_zero h rfl, reservedField_eq_zero h rfl⟩, fun ⟨hhigh, hmid⟩ => ?_⟩
  have hmask : reservedMask .setPixel = 0xFF000000#32 ||| 0x000000E0#32 := rfl
  rw [hmask, BitVec.and_or_distrib_left, BitVec.or_eq_zero_iff]
  exact ⟨and_fieldMask_eq_zero hhigh, and_fieldMask_eq_zero hmid⟩

/-- Format G (R74): the mask is the two reserved fields of GLYPH. -/
theorem and_reservedMask_glyph_eq_zero_iff (cmd : Word) :
    cmd &&& reservedMask .glyph = 0#32 ↔
      cmd.extractLsb' 16 16 = 0#16 ∧ cmd.extractLsb' 4 4 = 0#4 := by
  refine ⟨fun h => ⟨reservedField_eq_zero h rfl, reservedField_eq_zero h rfl⟩, fun ⟨hhigh, hmid⟩ => ?_⟩
  have hmask : reservedMask .glyph = 0xFFFF0000#32 ||| 0x000000F0#32 := rfl
  rw [hmask, BitVec.and_or_distrib_left, BitVec.or_eq_zero_iff]
  exact ⟨and_fieldMask_eq_zero hhigh, and_fieldMask_eq_zero hmid⟩

/-! ## The operand check (R188) -/

theorem OperandBlock.wf_eq_false_iff {o : OperandBlock} :
    o.wf = false ↔ o.gear = 0b11#2 ∨ o.turn = 0b11#2 ∨ o.reserved ≠ 0b000#3 := by
  simp [OperandBlock.wf, imp_iff_not_or, or_assoc]

end Sys2Proof

namespace Sys2Proof.Machine

/-! ## Commands that are refused (R183, R188) -/

theorem exec_init_raises {s : State} (hf : s.fault = false) (hi : s.initDone = true) :
    exec .init s = .next (s.raise .reinit) := by
  simp [exec, execInit, State.checkNotInitialized, hi, State.conclude_raises hf]

theorem exec_clear_raises {s : State} (hf : s.fault = false) (hi : s.initDone = false) :
    exec .clear s = .next (s.raise .notInit) := by
  simp [exec, execClear, State.checkInitialized, hi, State.conclude_raises hf]

theorem exec_setPixel_raises {s : State} (hf : s.fault = false) (hi : s.initDone = false)
    (col row : Byte) (on : Bool) : exec (.setPixel col row on) s = .next (s.raise .notInit) := by
  simp [exec, execSetPixel, State.checkInitialized, hi, State.conclude_raises hf]

theorem exec_glyph_raises {s : State} (hf : s.fault = false) (hi : s.initDone = false) (sym : Byte) :
    exec (.glyph sym) s = .next (s.raise .notInit) := by
  simp [exec, execGlyph, State.checkInitialized, hi, State.conclude_raises hf]

theorem exec_sendFrame_raises {s : State} (hf : s.fault = false) {o : OperandBlock}
    (hc : controlState o = none) : exec (.sendFrame o) s = .next (s.raise .badOperand) := by
  simp only [exec, execSendFrame, hc, State.conclude_raises hf]

theorem controlState_eq_none_of_not_wf {o : OperandBlock} (h : o.wf = false) :
    controlState o = none := by
  obtain hgear | hturn | hreserved := OperandBlock.wf_eq_false_iff.1 h
  · simp [controlState, hgear, gearOfCode]
  · simp [controlState, hturn, turnOfCode]
  · simp [controlState, hreserved]

/-! ## The acceptance pseudocode: the effects (R101, R110, R113, R117, R150) -/

variable {t : Token} {s : State}

theorem executeBits_init (hop : t.cmd.extractLsb' 0 4 = 0x1#4) :
    executeBits t s = { s with
      initDone := true
      pending := ([LinkEvent.drive] ++ linkEvents configWrites ++ flush s.buf).map .link } := by
  rw [flush, List.append_assoc, ← linkEvents_append]
  simp only [executeBits, hop]
  rfl

theorem executeBits_clear (hop : t.cmd.extractLsb' 0 4 = 0x2#4) :
    executeBits t s = { s with buf := blankRows, pending := [] } := by
  simp only [executeBits, hop]
  rfl

theorem executeBits_setPixel (hop : t.cmd.extractLsb' 0 4 = 0x3#4) :
    executeBits t s = { s with
      buf := setPixel s.buf (t.cmd.extractLsb' 8 8) (t.cmd.extractLsb' 16 8) (t.cmd.getLsbD 4)
      pending := [] } := by
  by_cases h : (t.cmd.extractLsb' 8 8).toNat < 8 ∧ (t.cmd.extractLsb' 16 8).toNat < 8
  · rw [setPixel_of_inRange s.buf _ h, setBit, ofBool_getLsbD_eq_extractLsb']
    simp only [executeBits, hop]
    exact dif_pos h
  · rw [setPixel_of_outOfRange s.buf _ h]
    simp only [executeBits, hop]
    exact dif_neg h

/-- GLYPH symbol by symbol: three have rows, any other leaves a blank buffer (R8, R27, R117). -/
theorem glyphRows_eq_ite (sym : Byte) :
    glyphRows sym =
      if sym = 0x44#8 then Config.glyphD
      else if sym = 0x52#8 then Config.glyphR
      else if sym = 0x50#8 then Config.glyphP else blankRows := by
  simp only [glyphRows, glyphRead, apply_ite (Option.getD · blankRows), Option.getD_some, Option.getD_none]

theorem executeBits_glyph (hop : t.cmd.extractLsb' 0 4 = 0x4#4) :
    executeBits t s = { s with
      buf := glyphRows (t.cmd.extractLsb' 8 8)
      pending := (flush (glyphRows (t.cmd.extractLsb' 8 8))).map .link } := by
  rw [glyphRows_eq_ite]
  simp only [executeBits, hop]
  rfl

/-- A field of a field is a field of the whole (R79). -/
theorem extractLsb'_extractLsb'_of_add_le {w start len start' len' : Nat} (x : BitVec w)
    (h : start' + len' ≤ len) :
    (x.extractLsb' start len).extractLsb' start' len' = x.extractLsb' (start + start') len' := by
  ext i hi
  simp [show start' + i < len by omega, Nat.add_assoc]

theorem le32_extractLsb' (opnd : BitVec 104) (start : Nat) :
    le32 (opnd.extractLsb' start 32) =
      [opnd.extractLsb' start 8, opnd.extractLsb' (start + 8) 8, opnd.extractLsb' (start + 16) 8,
        opnd.extractLsb' (start + 24) 8] := by
  simp (disch := decide) only [le32, extractLsb'_extractLsb'_of_add_le, Nat.add_zero]

theorem frame_eq_frameBits {opnd : BitVec 104} {c : ControlState}
    (hc : controlState (.ofBits opnd) = some c) : frame c = frameBits opnd := by
  obtain ⟨g, tn, hg, ht, rfl⟩ := controlState_inv hc
  simp only [frame, frameBits, OperandBlock.ofBits, le32_extractLsb', gear8_of_gearOfCode hg,
    turn8_of_turnOfCode ht]
  rfl

theorem executeBits_sendFrame (hop : t.cmd.extractLsb' 0 4 = 0x5#4) {c : ControlState}
    (hc : controlState (.ofBits t.opnd) = some c) :
    executeBits t s = { s with pending := (frame c).map .tx } := by
  rw [frame_eq_frameBits hc]
  simp only [executeBits, hop]
  rfl

/-! ## The checks -/

theorem reservedMask_eq_reservedBitsOf (op : Opcode) : reservedMask op = reservedBitsOf op.code := by
  cases op <;> rfl

theorem badOperandBits_eq_not_wf (opnd : BitVec 104) :
    badOperandBits opnd = !(OperandBlock.ofBits opnd).wf := by
  simp [badOperandBits, OperandBlock.wf, OperandBlock.ofBits, bne]

/-- The check of R180 that follows those of the command word, by opcode (R183, R188). -/
def commandCheck (t : Token) (s : State) : Opcode → Option Cause
  | .init => s.checkNotInitialized
  | .clear | .setPixel | .glyph => s.checkInitialized
  | .sendFrame => if badOperandBits t.opnd then some .badOperand else none

theorem acceptBits_faulted (hf : s.fault = true) : acceptBits t s = s := by
  simp [acceptBits, hf]

theorem acceptBits_illegalOpcode (hf : s.fault = false) (hop : opcodeOf t.cmd = none) :
    acceptBits t s = s.raise .illegalOpcode := by
  have hillegal := opcodeOf_eq_none_iff.1 hop
  simp only [List.mem_cons, List.not_mem_nil, or_false] at hillegal
  rw [acceptBits, hf, if_neg Bool.false_ne_true, if_pos hillegal]
  rfl

theorem acceptBits_reservedField {op : Opcode} (hf : s.fault = false)
    (hop : t.cmd.extractLsb' 0 4 = op.code) (hr : t.cmd &&& reservedMask op ≠ 0#32) :
    acceptBits t s = s.raise .reservedField := by
  rw [reservedMask_eq_reservedBitsOf] at hr
  have hlegal : op.code = 0x1#4 ∨ op.code = 0x2#4 ∨ op.code = 0x3#4 ∨ op.code = 0x4#4 ∨
      op.code = 0x5#4 := by
    cases op <;> decide
  rw [acceptBits, hf, hop, if_neg Bool.false_ne_true, if_neg (not_not.2 hlegal), if_pos hr]
  rfl

/-- In the pseudocode a legal word concludes with the check and the effect of its command. -/
theorem acceptBits_concludes {op : Opcode} (hop : t.cmd.extractLsb' 0 4 = op.code)
    (hr : t.cmd &&& reservedMask op = 0#32) :
    .next (acceptBits t s) = s.conclude (commandCheck t s op) (executeBits t s) := by
  cases hf : s.fault with
  | true => rw [acceptBits_faulted hf, State.conclude_faulted hf]
  | false =>
    rw [reservedMask_eq_reservedBitsOf] at hr
    simp only [acceptBits, hf, hop, hr]
    cases op with
    | init =>
      cases hi : s.initDone <;>
        simp [commandCheck, State.checkNotInitialized, hi, State.conclude_done hf, State.conclude_raises hf,
          Opcode.code, State.raise]
    | clear | setPixel | glyph =>
      cases hi : s.initDone <;>
        simp [commandCheck, State.checkInitialized, hi, State.conclude_done hf, State.conclude_raises hf,
          Opcode.code, State.raise]
    | sendFrame =>
      cases hb : badOperandBits t.opnd <;>
        simp [commandCheck, hb, State.conclude_done hf, State.conclude_raises hf,
          Opcode.code, State.raise]

/-- In the model's dispatch a command concludes with the pseudocode's check and effect as well. -/
theorem exec_assembleOperands {op : Opcode} (hop : t.cmd.extractLsb' 0 4 = op.code) :
    exec (assembleOperands t op) s = s.conclude (commandCheck t s op) (executeBits t s) := by
  cases op with
  | init => rw [executeBits_init hop]; rfl
  | clear => rw [executeBits_clear hop]; rfl
  | setPixel => rw [executeBits_setPixel hop]; rfl
  | glyph => rw [executeBits_glyph hop]; rfl
  | sendFrame =>
    simp only [assembleOperands, exec, execSendFrame, commandCheck, badOperandBits_eq_not_wf]
    cases hw : (OperandBlock.ofBits t.opnd).wf with
    | false => rw [controlState_eq_none_of_not_wf hw]; rfl
    | true =>
      obtain ⟨c, hc⟩ := exists_controlState_of_wf hw
      rw [executeBits_sendFrame hop hc, hc]
      rfl

/-! ## The acceptance as the pseudocode has it (R180, R185) -/

/-- A faulted block discards every token, whatever it is (R187). -/
theorem accept_faulted (hf : s.fault = true) (t : Token) : accept t s = .next s := by
  obtain ⟨i, -, ha⟩ | ⟨-, ha⟩ | ⟨hf', -⟩ := accept_cases t s
  · exact ha.trans (exec_faulted hf i)
  · exact ha
  · simp [hf] at hf'

theorem accept_of_decode_error {r : Rejection} (hf : s.fault = false) (hd : decode t = .error r) :
    accept t s = .next (s.raise (causeOf r)) := by
  simp [accept, hd, State.reject, State.conclude_raises hf]

/-- Decoder, dispatch and meanings do what the pseudocode does, check by check in its order. -/
theorem accept_eq_acceptBits (t : Token) (s : State) : accept t s = .next (acceptBits t s) := by
  cases hf : s.fault with
  | true => rw [accept_faulted hf, acceptBits_faulted hf]
  | false =>
    obtain ⟨hop, hd⟩ | ⟨op, hop, hr, hd⟩ | ⟨op, hop, hr, hd⟩ := decode_cases t
    · rw [accept_of_decode_error hf hd, acceptBits_illegalOpcode hf hop]
      rfl
    · rw [accept_of_decode_error hf hd, acceptBits_reservedField hf (opcodeField_of_opcodeOf hop) hr]
      rfl
    · have hcode := opcodeField_of_opcodeOf hop
      rw [accept_of_decode_ok hd, exec_assembleOperands hcode, acceptBits_concludes hcode hr]

/-! ## What an offered token and a step can lead to -/

theorem accepts_of_step {u : State} {ts : List Token} (ho : s.Offers t ts) (h : step s = .next u) :
    Accepts (s.accepting ts) t u := by
  obtain ⟨v, hv, ha⟩ := accept_next_accepts t (s.accepting ts)
  cases (hv.symm.trans (step_of_offers ho).symm).trans h
  exact ha

theorem Accepts.eq_of_faulted {u : State} (ha : Accepts s t u) (hf : s.fault = true) : u = s := by
  cases ha with
  | discarded => rfl
  | refused hf' | executed hf' => simp [hf] at hf'

/-- Only reset takes a block out of its fault, and a faulted block executes nothing (R186, R187). -/
theorem Steps.keeps_fault {u : State} (hs : Steps s u) (hf : s.fault = true)
    (hr : s.inputs.reset = false) :
    u.fault = true ∧ u.cause = s.cause ∧ u.buf = s.buf ∧ u.initDone = s.initDone := by
  cases hs with
  | reset hr' => simp [hr] at hr'
  | holds | emits | waits => exact ⟨hf, rfl, rfl, rfl⟩
  | accepts _ ha =>
    rw [ha.eq_of_faulted hf]
    exact ⟨hf, rfl, rfl, rfl⟩

theorem State.cmdReady_of_idle (hp : s.pending = []) : s.cmdReady = true := by
  simp [State.cmdReady, (State.busy_eq_false_iff s).2 hp]

end Sys2Proof.Machine

/-! ## The statements -/

namespace Sys2Proof.Proofs

open Sys2Proof.Machine

/-- Settles O4: the mask of each format covers just its reserved fields. -/
theorem reservedFieldIsAnyReservedBit : Obligations.ReservedFieldIsAnyReservedBit := by
  intro t
  rw [decode_eq_reservedField_iff]
  constructor
  · rintro ⟨op, hop, hr⟩
    cases op with
    | init | clear | sendFrame =>
      exact .inl ⟨by simp [hop, Opcode.code], mt (and_reservedMask_formatN_eq_zero_iff _).2 hr⟩
    | setPixel =>
      exact .inr (.inl ⟨hop, not_and_or.1 (mt (and_reservedMask_setPixel_eq_zero_iff _).2 hr)⟩)
    | glyph =>
      exact .inr (.inr ⟨hop, not_and_or.1 (mt (and_reservedMask_glyph_eq_zero_iff _).2 hr)⟩)
  · rintro (⟨hop, hr⟩ | ⟨hop, hr⟩ | ⟨hop, hr⟩)
    · have hr' := mt (and_reservedMask_formatN_eq_zero_iff _).1 hr
      simp only [List.mem_cons, List.not_mem_nil, or_false] at hop
      obtain hop | hop | hop := hop
      · exact ⟨.init, hop, hr'⟩
      · exact ⟨.clear, hop, hr'⟩
      · exact ⟨.sendFrame, hop, hr'⟩
    · exact ⟨.setPixel, hop, mt (and_reservedMask_setPixel_eq_zero_iff _).1 (not_and_or.2 hr)⟩
    · exact ⟨.glyph, hop, mt (and_reservedMask_glyph_eq_zero_iff _).1 (not_and_or.2 hr)⟩

/-- Settles O9, from the acceptance at the state with the token taken (`accept_eq_acceptBits`). -/
theorem acceptanceIsThePseudocode : Obligations.AcceptanceIsThePseudocode :=
  fun s t ts ho => (step_of_offers ho).trans (accept_eq_acceptBits t (s.accepting ts))

/-- Settles O10: whatever a step does, `Steps` lists the state it leads to. -/
theorem everyStepAnswersANextState : Obligations.EveryStepAnswersANextState := by
  intro s
  obtain ⟨u, hu, -⟩ := step_next_steps s
  exact ⟨u, hu⟩

/-- Settles O19: no step without reset ends a fault, and by the invariant a faulted block is idle before
and after it. -/
theorem faultedBlockDiscardsEveryToken : Obligations.FaultedBlockDiscardsEveryToken := by
  intro s hf hr
  obtain ⟨u, hu, hs⟩ := step_next_steps s
  obtain ⟨hfault, hkeeps⟩ := hs.keeps_fault hf hr
  refine ⟨⟨u, hu, hfault, hkeeps⟩, fun t ts ho => ⟨?_, State.cmdReady_of_idle ho.idle⟩, fun hinv => ?_⟩
  · exact (step_of_offers ho).trans (accept_faulted (s := s.accepting ts) hf t)
  · have hidle := hinv.idleWhenFaulted hf
    have hidle' := (hs.inv hinv).idleWhenFaulted hfault
    obtain ⟨hlog, hpins⟩ := (outputsLeaveInWorkListOrder s u hr hu).2 hidle
    exact ⟨State.cmdReady_of_idle hidle, u, hu, State.cmdReady_of_idle hidle', hidle', hlog, hpins⟩

/-- Settles O20: of all that accepting a token can lead to, only a refusal sets `fault`. -/
theorem refusedCommandHasNoPartialEffect : Obligations.RefusedCommandHasNoPartialEffect := by
  intro s u t ts ho hf hs hfault
  cases accepts_of_step ho hs with
  | discarded hf' => exact absurd (hf.symm.trans hf') Bool.false_ne_true
  | refused _ hc => exact ⟨hc, rfl⟩
  | executed hf' _ hx => exact absurd (hf'.symm.trans (hx.fault_eq.symm.trans hfault)) Bool.false_ne_true

/-- Settles O3, from the opcode map. -/
theorem illegalOpcodeIsAnyOtherOpcodeField : Obligations.IllegalOpcodeIsAnyOtherOpcodeField :=
  fun _ => decode_eq_illegalOpcode_iff.trans opcodeOf_eq_none_iff

/-- Settles O21, command by command. -/
theorem sequencingFaults : Obligations.SequencingFaults := by
  intro s hf
  refine ⟨fun hi => ?_, exec_init_raises hf, fun o ho => ?_⟩
  · exact ⟨exec_clear_raises hf hi, exec_setPixel_raises hf hi, exec_glyph_raises hf hi⟩
  · obtain ⟨c, hc⟩ := exists_controlState_of_wf ho
    exact ⟨_, exec_sendFrame hf hc, hf, rfl⟩

/-- Settles O22: the operand check fails exactly where the block stands for no control state. -/
theorem badOperandIsCheckedOnTheOperandBlock : Obligations.BadOperandIsCheckedOnTheOperandBlock := by
  intro s o hf
  rw [← OperandBlock.wf_eq_false_iff, Bool.not_eq_false]
  refine ⟨fun ho => exec_sendFrame_raises hf (controlState_eq_none_of_not_wf ho), fun ho => ?_⟩
  obtain ⟨c, hc⟩ := exists_controlState_of_wf ho
  exact ⟨_, exec_sendFrame hf hc, hf, rfl⟩

end Sys2Proof.Proofs

/-! # Proofs of family 70_reset_and_hazards.md

First what a step with the reset line up answers and what it leaves of the observation, then a busy block
whose awaited gate is closed, for one step and for a run, and last the statements settled from them. -/

namespace Sys2Proof.Machine

/-! ## Reset (R210, R211) -/

theorem step_reset {s : State} (hr : s.inputs.reset = true) :
    step s = .next s.advanceInputs.takeReset := by
  simp [step, hr]

/-- The mark of a reset is neither a link event nor a byte, so both traces stay. -/
@[simp] theorem State.takeReset_linkTrace (s : State) : s.takeReset.linkTrace = s.linkTrace := by
  simp [State.linkTrace, Observed.linkEvent]

@[simp] theorem State.takeReset_txTrace (s : State) : s.takeReset.txTrace = s.txTrace := by
  simp [State.txTrace, Observed.txByte]

/-- Where nothing has been sent since the last reset, no register of the chip is known (R141, R211). -/
theorem State.chipRegister_eq_none {s : State} (h : eventsSinceReset s.log = []) (k : Byte) :
    s.chipRegister k = none := by
  rw [State.chipRegister, h]
  rfl

/-! ## A closed gate (R220, R221) -/

/-- A busy block whose awaited gate is closed holds: only the step's input lines are used up (R220). -/
theorem step_holds {s : State} {w : WorkItem} {rest : List WorkItem} (hp : s.pending = w :: rest)
    (hr : s.inputs.reset = false) (hg : s.inputs.ready w = false) : step s = .next s.advanceInputs := by
  have hengine := State.engineStep_holds (s := s.advanceInputs) hp hg
  simp [step, hr, (State.busy_eq_true_iff s).2 (by simp [hp]), hengine]

/-- As long as the awaited gate is closed, a run changes nothing but the input lines used up (R221). -/
theorem run_stalls {n : Nat} {s : State} {w : WorkItem} {rest : List WorkItem}
    (hp : s.pending = w :: rest)
    (hclosed : ∀ k, k < n → (s.inputsAt k).reset = false ∧ (s.inputsAt k).ready w = false) :
    Host.Core.run core n s = .next { s with upcoming := s.upcoming.drop n } := by
  induction n generalizing s with
  | zero => exact run_zero s
  | succ n ih =>
    obtain ⟨hr, hg⟩ := hclosed 0 (by omega)
    rw [State.inputsAt_zero] at hr hg
    have hlater : ∀ k, k < n →
        (s.advanceInputs.inputsAt k).reset = false ∧ (s.advanceInputs.inputsAt k).ready w = false := by
      intro k hk
      rw [State.inputsAt_advanceInputs]
      exact hclosed (k + 1) (by omega)
    refine (run_succ_of_step (step_holds hp hr hg) n).trans ((ih (s := s.advanceInputs) hp hlater).trans ?_)
    simp [State.advanceInputs]

end Sys2Proof.Machine

/-! ## The statements -/

namespace Sys2Proof.Proofs

open Sys2Proof.Machine

/-- Settles O45, by induction on the number of steps (`run_stalls`). -/
theorem closedGateStallsForEver : Obligations.ClosedGateStallsForEver :=
  fun _ _ _ _ hp hclosed => run_stalls hp hclosed

/-- Settles O51: a reset forgets the link events so far, and before INIT none has been sent since the last
reset (by the invariant). -/
theorem chipUnknownAfterReset : Obligations.ChipUnknownAfterReset := by
  refine ⟨fun s u hr hs => ?_, fun s hinv hi => ?_⟩
  · cases (step_reset hr).symm.trans hs
    exact State.chipRegister_eq_none (eventsSinceReset_reset s.log)
  · exact State.chipRegister_eq_none (hinv.eventsSinceReset_of_not_initDone hi)

/-- Settles O12, by the kind of the head item and the value of its gate. -/
theorem busyStepEmitsTheHeadOrHolds : Obligations.BusyStepEmitsTheHeadOrHolds := by
  refine fun s rest hr => ⟨fun e hp => ?_, fun b hp => ?_⟩
  · cases hg : s.inputs.linkReady with
    | true => exact step_emits hp hr hg
    | false => exact step_holds hp hr hg
  · cases hg : s.inputs.txReady with
    | true => exact step_emits hp hr hg
    | false => exact step_holds hp hr hg

/-- Settles O15: `takeReset` gives every field its reset value, and no other step ends a fault
(`Steps.keeps_fault`). -/
theorem resetTakesEffectAtOnce : Obligations.ResetTakesEffectAtOnce := by
  refine ⟨fun s hr => ⟨_, step_reset hr, rfl, rfl, rfl, rfl, rfl, rfl⟩, fun s u hs hf hf' => ?_⟩
  by_contra hr
  obtain ⟨hfault, -⟩ := (steps_of_step hs).keeps_fault hf (Bool.eq_false_of_not_eq_true hr)
  exact absurd (hf'.symm.trans hfault) Bool.false_ne_true

/-- Settles O16, from what a reset leaves of the traces and the tokens. -/
theorem resetDiscardsTheRestOfTheCommand : Obligations.ResetDiscardsTheRestOfTheCommand :=
  fun s hr => ⟨_, step_reset hr, rfl, s.advanceInputs.takeReset_linkTrace,
    s.advanceInputs.takeReset_txTrace, rfl⟩

end Sys2Proof.Proofs
